-- ==== Sys2Proof/Word.lean ====
section
/-! DEFINITION. The word types of the machine: every value the spec gives a width in bits is a bit
vector of that width (00_scope.md R9, R14). -/

namespace Sys2Proof

/-- A byte of memory, a general register, a timer (R30, R31, R40). -/
abbrev Byte := BitVec 8

/-- An instruction word, the index register, the program counter, a stack entry (R34, R35, R38). -/
abbrev Word := BitVec 16

/-- A register number, the field X or Y of an instruction; all 16 values are registers (R94). -/
abbrev Reg := BitVec 4

/-- The 4-bit immediate N (R93). -/
abbrev Nibble := BitVec 4

/-- The 12-bit immediate NNN (R93). -/
abbrev Addr12 := BitVec 12

/-- VF, the flag register (R32). -/
abbrev Reg.flag : Reg := 0xF#4

end Sys2Proof
end

