-- ==== Sys2Proof/Syntax.lean ====
section
/-! DEFINITION. The instructions: one constructor per row of spec/opcode_table.json (30_encoding.md
R95, R99). A constructor's arguments are all the fields of its format (R91, R92), the ignored Y of
8XY6 and 8XYE among them (R94), so that an instruction determines its word. -/

namespace Sys2Proof

/-- An instruction of the 34 of R95. Each field has its exact width, so every term is an instruction
some word encodes. -/
inductive Instr where
  /-- `00E0` CLS (R240) -/
  | cls
  /-- `00EE` RET (R140) -/
  | ret
  /-- `1NNN` JP addr (R141) -/
  | jp (nnn : Addr12)
  /-- `2NNN` CALL addr (R143) -/
  | call (nnn : Addr12)
  /-- `3XNN` SE Vx, byte (R144) -/
  | seImm (x : Reg) (nn : Byte)
  /-- `4XNN` SNE Vx, byte (R145) -/
  | sneImm (x : Reg) (nn : Byte)
  /-- `5XY0` SE Vx, Vy (R146) -/
  | seReg (x y : Reg)
  /-- `6XNN` LD Vx, byte (R171) -/
  | ldImm (x : Reg) (nn : Byte)
  /-- `7XNN` ADD Vx, byte (R172) -/
  | addImm (x : Reg) (nn : Byte)
  /-- `8XY0` LD Vx, Vy (R173) -/
  | ldReg (x y : Reg)
  /-- `8XY1` OR Vx, Vy (R174) -/
  | orReg (x y : Reg)
  /-- `8XY2` AND Vx, Vy (R175) -/
  | andReg (x y : Reg)
  /-- `8XY3` XOR Vx, Vy (R176) -/
  | xorReg (x y : Reg)
  /-- `8XY4` ADD Vx, Vy (R177) -/
  | addReg (x y : Reg)
  /-- `8XY5` SUB Vx, Vy (R178) -/
  | subReg (x y : Reg)
  /-- `8XY6` SHR Vx, Vy; Y is encoded and ignored (R179) -/
  | shr (x y : Reg)
  /-- `8XY7` SUBN Vx, Vy (R180) -/
  | subn (x y : Reg)
  /-- `8XYE` SHL Vx, Vy; Y is encoded and ignored (R181) -/
  | shl (x y : Reg)
  /-- `9XY0` SNE Vx, Vy (R147) -/
  | sneReg (x y : Reg)
  /-- `ANNN` LD I, addr (R211) -/
  | ldI (nnn : Addr12)
  /-- `BNNN` JP V0, addr (R148) -/
  | jpV0 (nnn : Addr12)
  /-- `CXNN` RND Vx, byte (R190) -/
  | rnd (x : Reg) (nn : Byte)
  /-- `DXYN` DRW Vx, Vy, nibble (R241) -/
  | drw (x y : Reg) (n : Nibble)
  /-- `EX9E` SKP Vx (R260) -/
  | skp (x : Reg)
  /-- `EXA1` SKNP Vx (R261) -/
  | sknp (x : Reg)
  /-- `FX07` LD Vx, DT (R280) -/
  | ldFromDT (x : Reg)
  /-- `FX0A` LD Vx, K (R266) -/
  | ldKey (x : Reg)
  /-- `FX15` LD DT, Vx (R281) -/
  | ldDT (x : Reg)
  /-- `FX18` LD ST, Vx (R282) -/
  | ldST (x : Reg)
  /-- `FX1E` ADD I, Vx (R212) -/
  | addI (x : Reg)
  /-- `FX29` LD F, Vx (R213) -/
  | ldF (x : Reg)
  /-- `FX33` LD B, Vx (R214) -/
  | ldB (x : Reg)
  /-- `FX55` LD [I], Vx (R215) -/
  | store (x : Reg)
  /-- `FX65` LD Vx, [I] (R216) -/
  | load (x : Reg)
  deriving DecidableEq, Repr

/-- The row of spec/opcode_table.json an instruction belongs to, by its mnemonic there. -/
def Instr.mnemonic : Instr → String
  | .cls => "CLS"
  | .ret => "RET"
  | .jp _ => "JP_addr"
  | .call _ => "CALL_addr"
  | .seImm _ _ => "SE_Vx__byte"
  | .sneImm _ _ => "SNE_Vx__byte"
  | .seReg _ _ => "SE_Vx__Vy"
  | .ldImm _ _ => "LD_Vx__byte"
  | .addImm _ _ => "ADD_Vx__byte"
  | .ldReg _ _ => "LD_Vx__Vy"
  | .orReg _ _ => "OR_Vx__Vy"
  | .andReg _ _ => "AND_Vx__Vy"
  | .xorReg _ _ => "XOR_Vx__Vy"
  | .addReg _ _ => "ADD_Vx__Vy"
  | .subReg _ _ => "SUB_Vx__Vy"
  | .shr _ _ => "SHR_Vx__Vy"
  | .subn _ _ => "SUBN_Vx__Vy"
  | .shl _ _ => "SHL_Vx__Vy"
  | .sneReg _ _ => "SNE_Vx__Vy"
  | .ldI _ => "LD_I__addr"
  | .jpV0 _ => "JP_V0__addr"
  | .rnd _ _ => "RND_Vx__byte"
  | .drw _ _ _ => "DRW_Vx__Vy__nibble"
  | .skp _ => "SKP_Vx"
  | .sknp _ => "SKNP_Vx"
  | .ldFromDT _ => "LD_Vx__DT"
  | .ldKey _ => "LD_Vx__K"
  | .ldDT _ => "LD_DT__Vx"
  | .ldST _ => "LD_ST__Vx"
  | .addI _ => "ADD_I__Vx"
  | .ldF _ => "LD_F__Vx"
  | .ldB _ => "LD_B__Vx"
  | .store _ => "LD__I___Vx"
  | .load _ => "LD_Vx___I"

end Sys2Proof
end

