-- ==== Sys2Proof/Decode.lean ====
section
/-! DEFINITION. The decoder (30_encoding.md R91, R96), total on every word and on every list of bytes,
and after it the encoder, written from the formats of R92. -/

namespace Sys2Proof

/-- F, the family (R91). -/
def Word.family (w : Word) : Nibble := w.extractLsb' 12 4

/-- X, a register number (R91). -/
def Word.fieldX (w : Word) : Reg := w.extractLsb' 8 4

/-- Y, a register number (R91). -/
def Word.fieldY (w : Word) : Reg := w.extractLsb' 4 4

/-- N, a 4-bit immediate or function code (R91). -/
def Word.fieldN (w : Word) : Nibble := w.extractLsb' 0 4

/-- NN, an 8-bit immediate or function code (R91). -/
def Word.fieldNN (w : Word) : Byte := w.extractLsb' 0 8

/-- NNN, a 12-bit address or immediate (R91). -/
def Word.fieldNNN (w : Word) : Addr12 := w.extractLsb' 0 12

/-- Why bytes are no instruction: the word is UNDEFINED (R97), or there is no whole word. -/
inductive Reject where
  | undefinedWord (w : Word)
  | truncated
  deriving DecidableEq, Repr

/-- Family 0 matches the whole word (R95, R96). -/
def decodeFamily0 (w : Word) : Except Reject Instr :=
  if w = 0x00E0#16 then .ok .cls
  else if w = 0x00EE#16 then .ok .ret
  else .error (.undefinedWord w)

/-- Family 5 requires N = 0 (R96). -/
def decodeFamily5 (w : Word) : Except Reject Instr :=
  if w.fieldN = 0x0#4 then .ok (.seReg w.fieldX w.fieldY) else .error (.undefinedWord w)

/-- Family 8 is selected by N (R96). -/
def decodeFamily8 (w : Word) : Except Reject Instr :=
  match w.fieldN with
  | 0x0#4 => .ok (.ldReg w.fieldX w.fieldY)
  | 0x1#4 => .ok (.orReg w.fieldX w.fieldY)
  | 0x2#4 => .ok (.andReg w.fieldX w.fieldY)
  | 0x3#4 => .ok (.xorReg w.fieldX w.fieldY)
  | 0x4#4 => .ok (.addReg w.fieldX w.fieldY)
  | 0x5#4 => .ok (.subReg w.fieldX w.fieldY)
  | 0x6#4 => .ok (.shr w.fieldX w.fieldY)
  | 0x7#4 => .ok (.subn w.fieldX w.fieldY)
  | 0xE#4 => .ok (.shl w.fieldX w.fieldY)
  | _ => .error (.undefinedWord w)

/-- Family 9 requires N = 0 (R96). -/
def decodeFamily9 (w : Word) : Except Reject Instr :=
  if w.fieldN = 0x0#4 then .ok (.sneReg w.fieldX w.fieldY) else .error (.undefinedWord w)

/-- Family E is selected by NN (R96). -/
def decodeFamilyE (w : Word) : Except Reject Instr :=
  match w.fieldNN with
  | 0x9E#8 => .ok (.skp w.fieldX)
  | 0xA1#8 => .ok (.sknp w.fieldX)
  | _ => .error (.undefinedWord w)

/-- Family F is selected by NN (R96). -/
def decodeFamilyF (w : Word) : Except Reject Instr :=
  match w.fieldNN with
  | 0x07#8 => .ok (.ldFromDT w.fieldX)
  | 0x0A#8 => .ok (.ldKey w.fieldX)
  | 0x15#8 => .ok (.ldDT w.fieldX)
  | 0x18#8 => .ok (.ldST w.fieldX)
  | 0x1E#8 => .ok (.addI w.fieldX)
  | 0x29#8 => .ok (.ldF w.fieldX)
  | 0x33#8 => .ok (.ldB w.fieldX)
  | 0x55#8 => .ok (.store w.fieldX)
  | 0x65#8 => .ok (.load w.fieldX)
  | _ => .error (.undefinedWord w)

/-- The decode function of R96: a function of the word alone (R123). The last arm is family 0xF, the
one nibble left. -/
def decodeWord (w : Word) : Except Reject Instr :=
  match w.family with
  | 0x0#4 => decodeFamily0 w
  | 0x1#4 => .ok (.jp w.fieldNNN)
  | 0x2#4 => .ok (.call w.fieldNNN)
  | 0x3#4 => .ok (.seImm w.fieldX w.fieldNN)
  | 0x4#4 => .ok (.sneImm w.fieldX w.fieldNN)
  | 0x5#4 => decodeFamily5 w
  | 0x6#4 => .ok (.ldImm w.fieldX w.fieldNN)
  | 0x7#4 => .ok (.addImm w.fieldX w.fieldNN)
  | 0x8#4 => decodeFamily8 w
  | 0x9#4 => decodeFamily9 w
  | 0xA#4 => .ok (.ldI w.fieldNNN)
  | 0xB#4 => .ok (.jpV0 w.fieldNNN)
  | 0xC#4 => .ok (.rnd w.fieldX w.fieldNN)
  | 0xD#4 => .ok (.drw w.fieldX w.fieldY w.fieldN)
  | 0xE#4 => decodeFamilyE w
  | _ => decodeFamilyF w

/-- Two bytes make a word, the first (at the lower address) in bits 15-8 (20_memory.md R65). -/
def joinBytes (hi lo : Byte) : Word := hi ++ lo

/-- The byte of a word at its lower address: bits 15-8 (R65). -/
def Word.hiByte (w : Word) : Byte := w.extractLsb' 8 8

/-- The byte of a word at its higher address: bits 7-0 (R65). -/
def Word.loByte (w : Word) : Byte := w.extractLsb' 0 8

/-- Decode the first instruction of a list of bytes; the rest of the list comes back with it. -/
def decodeBytes : List Byte → Except Reject (Instr × List Byte)
  | hi :: lo :: rest =>
    match decodeWord (joinBytes hi lo) with
    | .ok i => .ok (i, rest)
    | .error e => .error e
  | _ => .error .truncated

/-- The bytes of a word as memory stores them (R65). -/
def wordBytes (w : Word) : List Byte := [w.hiByte, w.loByte]

/-- The word that the low `nbits` bits of `w` stand for; every instruction is one word (R90). -/
def tableWord (nbits w : Nat) : Word := BitVec.ofNat 16 (w % 2 ^ nbits)

/-- What the decoder reads from an instruction whose bits are `w`, numbered as
spec/opcode_table.json numbers them: the word is laid out big-endian and decoded. -/
def decodeTableWord (nbits w : Nat) : Option Instr :=
  match decodeBytes (wordBytes (tableWord nbits w)) with
  | .ok (i, _) => some i
  | .error _ => none

/-- Format A: family and a 12-bit immediate (R92). -/
def formatA (f : Nibble) (nnn : Addr12) : Word := f ++ nnn

/-- Format XNN: family, register, byte (R92). -/
def formatXNN (f : Nibble) (x : Reg) (nn : Byte) : Word := f ++ x ++ nn

/-- Formats XYF and XYN: family, two registers, function code or count (R92). -/
def formatXYN (f : Nibble) (x y : Reg) (n : Nibble) : Word := f ++ x ++ y ++ n

/-- The word of an instruction, from the patterns of R95 and the formats of R92. Format XF is
format XNN with the function code in the place of NN. -/
def encode : Instr → Word
  | .cls => 0x00E0#16
  | .ret => 0x00EE#16
  | .jp nnn => formatA 0x1 nnn
  | .call nnn => formatA 0x2 nnn
  | .seImm x nn => formatXNN 0x3 x nn
  | .sneImm x nn => formatXNN 0x4 x nn
  | .seReg x y => formatXYN 0x5 x y 0x0
  | .ldImm x nn => formatXNN 0x6 x nn
  | .addImm x nn => formatXNN 0x7 x nn
  | .ldReg x y => formatXYN 0x8 x y 0x0
  | .orReg x y => formatXYN 0x8 x y 0x1
  | .andReg x y => formatXYN 0x8 x y 0x2
  | .xorReg x y => formatXYN 0x8 x y 0x3
  | .addReg x y => formatXYN 0x8 x y 0x4
  | .subReg x y => formatXYN 0x8 x y 0x5
  | .shr x y => formatXYN 0x8 x y 0x6
  | .subn x y => formatXYN 0x8 x y 0x7
  | .shl x y => formatXYN 0x8 x y 0xE
  | .sneReg x y => formatXYN 0x9 x y 0x0
  | .ldI nnn => formatA 0xA nnn
  | .jpV0 nnn => formatA 0xB nnn
  | .rnd x nn => formatXNN 0xC x nn
  | .drw x y n => formatXYN 0xD x y n
  | .skp x => formatXNN 0xE x 0x9E
  | .sknp x => formatXNN 0xE x 0xA1
  | .ldFromDT x => formatXNN 0xF x 0x07
  | .ldKey x => formatXNN 0xF x 0x0A
  | .ldDT x => formatXNN 0xF x 0x15
  | .ldST x => formatXNN 0xF x 0x18
  | .addI x => formatXNN 0xF x 0x1E
  | .ldF x => formatXNN 0xF x 0x29
  | .ldB x => formatXNN 0xF x 0x33
  | .store x => formatXNN 0xF x 0x55
  | .load x => formatXNN 0xF x 0x65

end Sys2Proof
end

