-- ==== Sys2Proof/Config.lean ====
section
/-! DEFINITION. What is fixed for the machine: the implementation parameters of 00_scope.md R9, and
the one free value of the model, the random draw of 42_alu.md R192. The font, which the host may
supply, is in Machine/Font.lean. -/

namespace Sys2Proof

/-- The highest memory address (R9: 4096 bytes). -/
@[simp] def Config.lastAddr : Nat := 0xFFF

/-- The highest address of the font area (R9, R68). -/
@[simp] def Config.fontLast : Nat := 0x04F

/-- The address at which programs are loaded and PC starts (R9, R351). -/
@[simp] def Config.entryPoint : Nat := 0x200

/-- The bytes of the work area, the longest program (R9, R352). -/
@[simp] def Config.workArea : Nat := 3584

/-- FONT_BASE (R9, R213). -/
@[simp] def Config.fontBase : Nat := 0x000

/-- The random byte that the `n`-th execution of CXNN draws (R192). DESIGN CHOICE (log 2): the spec
lets a draw be any byte, so the value has no definition here and nothing can be proved of it.
Safe: whatever is proved holds for every sequence of draws. -/
opaque Config.drawRandom : Nat → Byte

end Sys2Proof
end

