-- ==== Sys2Proof/Machine/Font.lean ====
section
/-! DEFINITION. The default FONT (10_state.md R49) and the reset contents of memory under it (R50). -/

namespace Sys2Proof.Machine

/-- The glyphs of the digits 0 to 7, five bytes each, top row first (R49). -/
def defaultFontLow : Vector Byte 40 :=
  #v[0xF0, 0x90, 0x90, 0x90, 0xF0,  0x20, 0x60, 0x20, 0x20, 0x70,
     0xF0, 0x10, 0xF0, 0x80, 0xF0,  0xF0, 0x10, 0xF0, 0x10, 0xF0,
     0x90, 0x90, 0xF0, 0x10, 0x10,  0xF0, 0x80, 0xF0, 0x10, 0xF0,
     0xF0, 0x80, 0xF0, 0x90, 0xF0,  0xF0, 0x10, 0x20, 0x40, 0x40]

/-- The glyphs of the digits 8 to F (R49). -/
def defaultFontHigh : Vector Byte 40 :=
  #v[0xF0, 0x90, 0xF0, 0x90, 0xF0,  0xF0, 0x90, 0xF0, 0x10, 0xF0,
     0xF0, 0x90, 0xF0, 0x90, 0x90,  0xE0, 0x90, 0xE0, 0x90, 0xE0,
     0xF0, 0x80, 0x80, 0x80, 0xF0,  0xE0, 0x90, 0x90, 0x90, 0xE0,
     0xF0, 0x80, 0xF0, 0x80, 0xF0,  0xF0, 0x80, 0xF0, 0x80, 0x80]

/-- The default of the parameter FONT (R49). PRESUMED by the spec itself, from general knowledge of
CHIP-8 (log 1). Unsafe: a claim that reads glyph bytes at `State.reset` holds for these bytes. -/
def defaultFont : Vector Byte 80 := defaultFontLow ++ defaultFontHigh

/-- What an address reads as that nothing has written: its reset contents (R50), FONT below 0x050 and
0x00 elsewhere; above 0xFFF, where there is no memory, this is DESIGN CHOICE (log 7), and no access
reaches it. Safe. -/
def Memory.initial (a : Nat) : Byte := if a ≤ Config.fontLast then defaultFont.toList.getD a 0 else 0

end Sys2Proof.Machine
end

