-- ==== Sys2Proof/Machine/State.lean ====
section
/-! DEFINITION. The state of the machine (10_state.md), as plain data, and its value after reset
(R50). -/

namespace Sys2Proof.Machine

/-- The run state RUN (R46). -/
inductive RunState where
  | running
  | awaitingKey
  | halted
  deriving DecidableEq, Repr

/-- The error kinds a step can raise (60_exceptions.md R301). The seventh code of R301, LoadError, is
returned by `loadProgram` and never logged (R352), so it is no kind of this type. -/
inductive ErrorKind where
  | decodeError
  | stackOverflow
  | stackUnderflow
  | memoryRange
  | fontWrite
  | keyIndex
  deriving DecidableEq, Repr

/-- The code of an error kind (R301). -/
def ErrorKind.code : ErrorKind → Nat
  | .decodeError => 1
  | .stackOverflow => 2
  | .stackUnderflow => 3
  | .memoryRange => 4
  | .fontWrite => 5
  | .keyIndex => 6

/-- A record of the error log (R47). -/
structure ErrorRecord where
  /-- the kind, which stands for its code -/
  kind : ErrorKind
  /-- the PC of the step that raised it -/
  pc : Word
  /-- the instruction word, absent for a fetch fault -/
  word : Option Word
  /-- a faulting address or a key index, where the kind has one; an exact integer (R63) -/
  info : Option Nat
  deriving DecidableEq, Repr

/-- Memory: the bytes that differ from what `Memory.initial` says, by address, in the canonical form
`Memory.wf` (R30; log 7). -/
abbrev Memory := List Host.Cell

/-- The framebuffer: 64 columns of 32 pixels, `fb[x][y]` (R41). -/
abbrev Framebuffer := Vector (Vector Bool 32) 64

/-- The state of the machine. Every field but the last is the spec's. -/
structure State where
  /-- V[0]..V[15] (R31) -/
  v : Vector Byte 16
  /-- I (R34) -/
  i : Word
  /-- PC (R35) -/
  pc : Word
  /-- STACK[0]..STACK[15] (R38) -/
  stack : Vector Word 16
  /-- SP, 0..16 (R38) -/
  sp : Fin 17
  /-- DT (R40) -/
  dt : Byte
  /-- ST (R40) -/
  st : Byte
  /-- FB (R41) -/
  fb : Framebuffer
  /-- KEY[0]..KEY[15] (R42) -/
  key : Vector Bool 16
  /-- REDRAW (R43) -/
  redraw : Bool
  /-- RUN (R46) -/
  run : RunState
  /-- ERRORS, in the order raised (R47) -/
  errors : List ErrorRecord
  /-- MEM (R30) -/
  mem : Memory
  /-- how many random bytes have been drawn: the model's own field, which selects the next draw
  `Config.drawRandom draws` (R192; log 2) -/
  draws : Nat
  deriving DecidableEq, Repr

/-- Why the machine could stop with a fault: never. The spec describes the entry of every error
(60_exceptions.md R302, R303), so each one is a next state, a halting fault among them
(RUN = HALTED); the type has no constructor (log 3). -/
inductive Fault where
  deriving DecidableEq, Repr

/-- Why the machine could refuse an instruction. -/
inductive Refusal where
  /-- Raised only by an arm of `exec` whose instruction has no meaning yet; no arm is such an arm.
  Safe: nothing but the refusal could be proved of that instruction. -/
  | notModelled (mnemonic : String)
  deriving DecidableEq, Repr

/-- The state after reset, under the default FONT (R50): memory lists nothing, because an unlisted
address reads as its reset contents. `draws` is 0 (DESIGN CHOICE, log 2). -/
def State.reset : State where
  v := Vector.replicate 16 0
  i := 0
  pc := BitVec.ofNat 16 Config.entryPoint
  stack := Vector.replicate 16 0
  sp := 0
  dt := 0
  st := 0
  fb := Vector.replicate 64 (Vector.replicate 32 false)
  key := Vector.replicate 16 false
  redraw := true
  run := .running
  errors := []
  mem := []
  draws := 0

end Sys2Proof.Machine
end

