-- ==== Sys2Proof/Machine/Ops.lean ====
section
/-! DEFINITION. The named operations every meaning goes through: updates of one field, memory, the
access checks, taking an error, completing an instruction, the fetch. -/

namespace Sys2Proof.Machine

/-- What one step answers. -/
abbrev Step := Host.Outcome State Fault Refusal

/-! Registers and other fields (00_scope.md R17). -/

/-- `V[r]`. -/
def State.readV (s : State) (r : Reg) : Byte := s.v[r.toNat]

/-- `V[r] <- b`; no register is hard-wired (R31). -/
def State.setV (s : State) (r : Reg) (b : Byte) : State := { s with v := s.v.set r.toNat b }

/-- The whole register file is replaced (FX65 writes a range of it). -/
def State.setRegs (s : State) (v : Vector Byte 16) : State := { s with v := v }

/-- `I <- w`. -/
def State.setI (s : State) (w : Word) : State := { s with i := w }

/-- `pc <- w`. -/
def State.setPc (s : State) (w : Word) : State := { s with pc := w }

/-- `RUN <- r`. -/
def State.setRun (s : State) (r : RunState) : State := { s with run := r }

/-- `DT <- b`. -/
def State.setDT (s : State) (b : Byte) : State := { s with dt := b }

/-- `ST <- b`. -/
def State.setST (s : State) (b : Byte) : State := { s with st := b }

/-- The framebuffer is replaced and REDRAW set: the two happen together in 00E0 and DXYN (R43, R247). -/
def State.setScreen (s : State) (f : Framebuffer) : State := { s with fb := f, redraw := true }

/-- Memory is replaced. -/
def State.setMem (s : State) (m : Memory) : State := { s with mem := m }

/-- One record is appended to ERRORS (R47). -/
def State.logError (s : State) (r : ErrorRecord) : State := { s with errors := s.errors ++ [r] }

/-- The next draw is taken (R192). -/
def State.countDraw (s : State) : State := { s with draws := s.draws + 1 }

/-! The call stack (R38, R39). -/

/-- Whether SP = 16. -/
def State.stackFull (s : State) : Bool := s.sp == 16

/-- Whether SP = 0. -/
def State.stackEmpty (s : State) : Bool := s.sp == 0

/-- `STACK[SP] <- w; SP <- SP + 1`, where SP < 16; a full stack is left as it is (2NNN checks first,
R143). -/
def State.push (s : State) (w : Word) : State :=
  if h : s.sp.val < 16 then { s with stack := s.stack.set s.sp.val w, sp := ⟨s.sp.val + 1, by omega⟩ }
  else s

/-- `STACK[SP - 1]`, the entry a return takes, where SP > 0 (R140). -/
def State.top (s : State) : Word := s.stack[s.sp.val - 1]

/-- `SP <- SP - 1`; the entry stays as a stale value (R140). -/
def State.pop (s : State) : State := { s with sp := ⟨s.sp.val - 1, by omega⟩ }

/-! Memory (20_memory.md). -/

/-- `MEM[a]`: the listed byte, or the reset contents of an address that is not listed (R70). -/
def Memory.read : Memory → Nat → Byte
  | [], a => Memory.initial a
  | (k, b) :: m, a => if a = k then b else Memory.read m a

/-- No entry for an address. -/
def Memory.erase (m : Memory) (a : Nat) : Memory := m.filter fun c => c.1 != a

/-- A new entry in address order. -/
def Memory.insert : Memory → Nat → Byte → Memory
  | [], a, b => [(a, b)]
  | (k, c) :: m, a, b => if a < k then (a, b) :: (k, c) :: m else (k, c) :: Memory.insert m a b

/-- `MEM[a] <- b`, keeping the canonical form: an address is listed only where its byte differs from
its reset contents. -/
def Memory.write (m : Memory) (a : Nat) (b : Byte) : Memory :=
  if b = Memory.initial a then m.erase a else (m.erase a).insert a b

/-- The canonical form: addresses strictly rising and below 0x1000, and no entry equal to what an
unlisted address reads as. -/
abbrev Memory.wf (m : Memory) : Prop :=
  m.Pairwise (fun c d => c.1 < d.1) ∧
    ∀ c ∈ m, c.1 ≤ Config.lastAddr ∧ c.2 ≠ Memory.initial c.1

/-- The `n` bytes from address `a` on, in ascending order (R71). -/
def Memory.readBytes (m : Memory) (a : Nat) : Nat → List Byte
  | 0 => []
  | n + 1 => m.read a :: m.readBytes (a + 1) n

/-- Bytes written from address `a` on, in ascending order (R71). -/
def Memory.writeBytes (m : Memory) (a : Nat) : List Byte → Memory
  | [] => m
  | b :: bs => (m.write a b).writeBytes (a + 1) bs

/-- The error of an access check: its kind and the failing address (R61, R62). -/
structure AccessFault where
  kind : ErrorKind
  addr : Nat
  deriving DecidableEq, Repr

/-- The check of MemRead (R61). -/
def checkRead (a : Nat) : Option AccessFault :=
  if a > Config.lastAddr then some ⟨.memoryRange, a⟩ else none

/-- The checks of MemWrite: the range, then the font area (R62). -/
def checkWrite (a : Nat) : Option AccessFault :=
  if a > Config.lastAddr then some ⟨.memoryRange, a⟩
  else if a ≤ Config.fontLast then some ⟨.fontWrite, a⟩
  else none

/-- The addresses of an access of `n` bytes at `a`: the exact integers `a + k` (R63, R210). -/
def accessAddrs (a n : Nat) : List Nat := List.range' a n

/-- The first failing address in ascending order, if any (R64). -/
def firstFault (check : Nat → Option AccessFault) (a n : Nat) : Option AccessFault :=
  (accessAddrs a n).findSome? check

/-! Taking an error (60_exceptions.md R300-R303). -/

/-- Whether an error halts the machine (R301). -/
def ErrorKind.halting : ErrorKind → Bool
  | .decodeError | .stackOverflow | .stackUnderflow => false
  | .memoryRange | .fontWrite | .keyIndex => true

/-- `raise E(info)`: the one way an error is taken. A record is appended, with PC the address of the
instruction; a recoverable error skips the instruction and runs on (R302), a halting fault leaves
PC and halts (R303). Nothing else changes. -/
def raise (k : ErrorKind) (word : Option Word) (info : Option Nat) (s : State) : State :=
  if k.halting then (s.logError ⟨k, s.pc, word, info⟩).setRun .halted
  else ((s.logError ⟨k, s.pc, word, info⟩).setPc (s.pc + 2)).setRun .running

/-- An instruction raises an error: the record's word is the instruction's own (R302, R303; log 6). -/
def raiseBy (i : Instr) (k : ErrorKind) (info : Option Nat) (s : State) : Step :=
  .next (raise k (some (encode i)) info s)

/-! Completing an instruction (40_cycle.md R121, R125; log 5). -/

/-- The instruction's next PC is written, and RUN becomes RUNNING. -/
def complete (target : Word) (s : State) : Step := .next ((s.setPc target).setRun .running)

/-- The default: PC advances by 2, modulo 2^16 (R37, R125). -/
def advance (s : State) : Step := complete (s.pc + 2) s

/-- A skip: PC advances by 4 where the condition holds, else by 2 (R125, R361). -/
def skipIf (c : Bool) (s : State) : Step := complete (if c then s.pc + 4 else s.pc + 2) s

/-- FX0A with no key pressed: RUN becomes AWAITING_KEY, and PC stays (R266). -/
def awaitKey (s : State) : Step := .next (s.setRun .awaitingKey)

/-- An instruction that accesses the `n` bytes at I: every address is checked first (R64); the first
failing one is raised, and where none fails the instruction ends in `done`. -/
def accessing (i : Instr) (check : Nat → Option AccessFault) (n : Nat) (s done : State) : Step :=
  match firstFault check s.i.toNat n with
  | some f => raiseBy i f.kind (some f.addr) s
  | none => advance done

/-! The cycle (40_cycle.md R121). -/

/-- The fetch: both addresses are checked, then the word is read big-endian. -/
def fetch (s : State) : Except AccessFault Word :=
  match firstFault checkRead s.pc.toNat 2 with
  | some f => .error f
  | none => .ok (joinBytes (s.mem.read s.pc.toNat) (s.mem.read (s.pc.toNat + 1)))

/-- A step in HALTED changes nothing (R127). -/
def stepHalted (s : State) : Step := .next s

/-- A fetch fault is a halting fault whose record has no word (R121, R303). -/
def stepFetchFault (f : AccessFault) (s : State) : Step := .next (raise f.kind none (some f.addr) s)

/-- An undefined word raises DecodeError (R122). -/
def stepUndefined (w : Word) (s : State) : Step := .next (raise .decodeError (some w) none s)

end Sys2Proof.Machine
end

