-- ==== Sys2Proof/Machine/Operands.lean ====
section
/-! DEFINITION. The operand forms and the arithmetic on operands: values are computed as exact
integers and reduced to a width at the end (00_scope.md R14, R15). -/

namespace Sys2Proof.Machine

/-- `zext_16(NNN)` (R93). -/
def zext16 (nnn : Addr12) : Word := nnn.setWidth 16

/-- `trunc_8(a + b)` (R185). -/
def addTrunc (a b : Byte) : Byte := BitVec.ofNat 8 (a.toNat + b.toNat)

/-- `trunc_8(a - b)`, which is `a - b + 256` where `a < b` (R185). -/
def subTrunc (a b : Byte) : Byte := BitVec.ofInt 8 ((a.toNat : Int) - (b.toNat : Int))

/-- `a[7:1]`, the floor of `a / 2` (R179). -/
def halve (a : Byte) : Byte := BitVec.ofNat 8 (a.toNat / 2)

/-- `trunc_8(a * 2)` (R181). -/
def double (a : Byte) : Byte := BitVec.ofNat 8 (a.toNat * 2)

/-- `NNN + a`, exact: it fits in 16 bits (R148). -/
def offsetTarget (nnn : Addr12) (a : Byte) : Word := BitVec.ofNat 16 (nnn.toNat + a.toNat)

/-- `trunc_16(I + b)` (R212). -/
def indexPlus (i : Word) (b : Byte) : Word := BitVec.ofNat 16 (i.toNat + b.toNat)

/-- The address of the glyph of digit `d`, `d` not masked (R213). -/
def glyphAddr (d : Byte) : Word := BitVec.ofNat 16 (Config.fontBase + 5 * d.toNat)

/-- The decimal digits, hundreds first (R214). -/
def bcdDigits (a : Byte) : List Byte :=
  [BitVec.ofNat 8 (a.toNat / 100), BitVec.ofNat 8 (a.toNat / 10 % 10), BitVec.ofNat 8 (a.toNat % 10)]

/-- How many registers V0..VX are (R215, R216). -/
def regCount (x : Reg) : Nat := x.toNat + 1

/-- The values of V0..VX, in order (R215). -/
def regBytes (v : Vector Byte 16) (x : Reg) : List Byte := v.toList.take (regCount x)

/-- Bytes written to the registers from number `k` on, in ascending order (R216). -/
def loadRegs (v : Vector Byte 16) (k : Nat) : List Byte → Vector Byte 16
  | [] => v
  | b :: bs => loadRegs (v.setIfInBounds k b) (k + 1) bs

/-- Whether a byte names a key (R262). -/
def isKey (k : Byte) : Bool := decide (k.toNat ≤ 0xF)

/-- `KEY[k]`, released for a number that names no key (the key queries check first, R260). -/
def keyPressed (keys : Vector Bool 16) (k : Byte) : Bool := keys.toList.getD k.toNat false

/-- The lowest-numbered pressed key, if any (R266, R267). -/
def lowestKey (keys : Vector Bool 16) : Option Nat := keys.toList.findIdx? id

end Sys2Proof.Machine
end

