-- ==== Sys2Proof/Machine/Flags.lean ====
section
/-! DEFINITION. The flag computations, the values VF takes (10_state.md R32, R45), and the order in
which a flag and its result are written (42_alu.md R170). -/

namespace Sys2Proof.Machine

/-- 1 where the condition holds, else 0. -/
def flagByte (c : Bool) : Byte := if c then 1 else 0

/-- Carry: the exact sum exceeds 255 (R177, R185). -/
def carryFlag (a b : Byte) : Byte := flagByte (decide (a.toNat + b.toNat > 255))

/-- No borrow: the minuend is at least the subtrahend (R178, R180, R185). -/
def noBorrowFlag (minuend subtrahend : Byte) : Byte :=
  flagByte (decide (minuend.toNat ≥ subtrahend.toNat))

/-- The bit a right shift moves out, bit 0 (R179). -/
def lowBitFlag (a : Byte) : Byte := flagByte (a.getLsbD 0)

/-- The bit a left shift moves out, bit 7 (R181). -/
def highBitFlag (a : Byte) : Byte := flagByte (a.getLsbD 7)

/-- `V[F] <- flag` first, `V[X] <- result` second: X = F ends with the result (R170). -/
def State.setFlagged (s : State) (x : Reg) (flag result : Byte) : State :=
  (s.setV Reg.flag flag).setV x result

end Sys2Proof.Machine
end

