-- ==== Sys2Proof/Machine/Alu.lean ====
section
/-! DEFINITION. Register, arithmetic, logic and random instructions (42_alu.md). -/

namespace Sys2Proof.Machine

/-- `6XNN` (R171). -/
def execLdImm (x : Reg) (nn : Byte) (s : State) : Step := advance (s.setV x nn)

/-- `7XNN`: no flag (R172). -/
def execAddImm (x : Reg) (nn : Byte) (s : State) : Step :=
  advance (s.setV x (addTrunc (s.readV x) nn))

/-- `8XY0` (R173). -/
def execLdReg (x y : Reg) (s : State) : Step := advance (s.setV x (s.readV y))

/-- `8XY1` (R174). -/
def execOrReg (x y : Reg) (s : State) : Step := advance (s.setV x (s.readV x ||| s.readV y))

/-- `8XY2` (R175). -/
def execAndReg (x y : Reg) (s : State) : Step := advance (s.setV x (s.readV x &&& s.readV y))

/-- `8XY3` (R176). -/
def execXorReg (x y : Reg) (s : State) : Step := advance (s.setV x (s.readV x ^^^ s.readV y))

/-- `8XY4` (R177). -/
def execAddReg (x y : Reg) (s : State) : Step :=
  advance (s.setFlagged x (carryFlag (s.readV x) (s.readV y)) (addTrunc (s.readV x) (s.readV y)))

/-- `8XY5`: V[X] - V[Y] (R178). -/
def execSubReg (x y : Reg) (s : State) : Step :=
  advance (s.setFlagged x (noBorrowFlag (s.readV x) (s.readV y)) (subTrunc (s.readV x) (s.readV y)))

/-- `8XY6`: the operand is V[X]; Y is ignored (R179). -/
def execShr (x _y : Reg) (s : State) : Step :=
  advance (s.setFlagged x (lowBitFlag (s.readV x)) (halve (s.readV x)))

/-- `8XY7`: V[Y] - V[X] (R180). -/
def execSubn (x y : Reg) (s : State) : Step :=
  advance (s.setFlagged x (noBorrowFlag (s.readV y) (s.readV x)) (subTrunc (s.readV y) (s.readV x)))

/-- `8XYE`: the operand is V[X]; Y is ignored (R181). -/
def execShl (x _y : Reg) (s : State) : Step :=
  advance (s.setFlagged x (highBitFlag (s.readV x)) (double (s.readV x)))

/-- `CXNN` for a given draw (R190). -/
def rndWith (draw : Byte) (x : Reg) (nn : Byte) (s : State) : Step := advance (s.setV x (draw &&& nn))

/-- `CXNN`: one draw per execution, whatever NN is (R190, R192; the draw is a free value, log 2). -/
def execRnd (x : Reg) (nn : Byte) (s : State) : Step :=
  rndWith (Config.drawRandom s.draws) x nn s.countDraw

end Sys2Proof.Machine
end

