-- ==== Sys2Proof/Machine/ControlFlow.lean ====
section
/-! DEFINITION. Control flow instructions (41_control_flow.md). -/

namespace Sys2Proof.Machine

/-- `00EE` (R140). -/
def execRet (s : State) : Step :=
  if s.stackEmpty then raiseBy .ret .stackUnderflow none s else complete s.top s.pop

/-- `1NNN` (R141). -/
def execJp (nnn : Addr12) (s : State) : Step := complete (zext16 nnn) s

/-- `2NNN` (R143). -/
def execCall (nnn : Addr12) (s : State) : Step :=
  if s.stackFull then raiseBy (.call nnn) .stackOverflow none s
  else complete (zext16 nnn) (s.push (s.pc + 2))

/-- `3XNN` (R144). -/
def execSeImm (x : Reg) (nn : Byte) (s : State) : Step := skipIf (s.readV x == nn) s

/-- `4XNN` (R145). -/
def execSneImm (x : Reg) (nn : Byte) (s : State) : Step := skipIf (s.readV x != nn) s

/-- `5XY0` (R146). -/
def execSeReg (x y : Reg) (s : State) : Step := skipIf (s.readV x == s.readV y) s

/-- `9XY0` (R147). -/
def execSneReg (x y : Reg) (s : State) : Step := skipIf (s.readV x != s.readV y) s

/-- `BNNN`: the offset is always V0 (R148). -/
def execJpV0 (nnn : Addr12) (s : State) : Step := complete (offsetTarget nnn (s.readV 0)) s

end Sys2Proof.Machine
end

