-- ==== Sys2Proof/Machine/Display.lean ====
section
/-! DEFINITION. The sprite engine and the display instructions (44_display.md). -/

namespace Sys2Proof.Machine

/-- `FB[x][y]` (R41). -/
def pixelAt (f : Framebuffer) (x : Fin 64) (y : Fin 32) : Bool := f[x][y]

/-- `FB[x][y] <- b` (R41). -/
def setPixel (f : Framebuffer) (x : Fin 64) (y : Fin 32) (b : Bool) : Framebuffer :=
  f.set x (f[x].set y b)

/-- Every pixel off (R240). -/
def blankScreen : Framebuffer := Vector.replicate 64 (Vector.replicate 32 false)

/-- A column number modulo 64 (R242). -/
def wrapX (n : Nat) : Fin 64 := Fin.ofNat 64 n

/-- A row number modulo 32 (R242). -/
def wrapY (n : Nat) : Fin 32 := Fin.ofNat 32 n

/-- What a draw works on: the framebuffer and the collision seen so far (R241). -/
structure Canvas where
  fb : Framebuffer
  collision : Bool
  deriving DecidableEq, Repr

/-- The column a sprite byte's bit `7 - col` stands for: bit 7 is the leftmost pixel (R245, from
general knowledge inside the spec, log 11). -/
def spriteBit (b : Byte) (col : Nat) : Bool := b.getLsbD (7 - col)

/-- One pixel of a sprite: a 1 bit flips its pixel, and a pixel that was on is a collision; a 0 bit
does nothing (R241, R243). -/
def drawPixel (bit : Bool) (x : Fin 64) (y : Fin 32) (c : Canvas) : Canvas :=
  if bit then ⟨setPixel c.fb x y (!pixelAt c.fb x y), c.collision || pixelAt c.fb x y⟩ else c

/-- One byte of a sprite at column `x0` and row `y`, columns ascending, every pixel wrapped (R241,
R242). -/
def drawRow (b : Byte) (x0 y : Nat) (c : Canvas) : Canvas :=
  (List.range 8).foldl (fun c col => drawPixel (spriteBit b col) (wrapX (x0 + col)) (wrapY y) c) c

/-- The bytes of a sprite at column `x0`, the first in row `y`, rows ascending (R241). -/
def drawRows (x0 : Nat) : Nat → List Byte → Canvas → Canvas
  | _, [], c => c
  | y, b :: bs, c => drawRows x0 (y + 1) bs (drawRow b x0 y c)

/-- A whole sprite, from no collision. -/
def drawSprite (f : Framebuffer) (x0 y0 : Byte) (bytes : List Byte) : Canvas :=
  drawRows x0.toNat y0.toNat bytes ⟨f, false⟩

/-- `00E0` (R240). -/
def execCls (s : State) : Step := advance (s.setScreen blankScreen)

/-- The state a draw ends in: coordinates and I are read before, VF is written last (R241, R243). -/
def drawn (x y : Reg) (n : Nibble) (s : State) : State :=
  let c := drawSprite s.fb (s.readV x) (s.readV y) (s.mem.readBytes s.i.toNat n.toNat)
  (s.setScreen c.fb).setV Reg.flag (flagByte c.collision)

/-- `DXYN` (R241); with N = 0 there is no address to check (R244). -/
def execDrw (x y : Reg) (n : Nibble) (s : State) : Step :=
  accessing (.drw x y n) checkRead n.toNat s (drawn x y n s)

end Sys2Proof.Machine
end

