-- ==== Sys2Proof/Machine/IndexMemory.lean ====
section
/-! DEFINITION. Index register and memory instructions (43_index_memory.md). -/

namespace Sys2Proof.Machine

/-- `ANNN` (R211). -/
def execLdI (nnn : Addr12) (s : State) : Step := advance (s.setI (zext16 nnn))

/-- `FX1E`: no flag (R212). -/
def execAddI (x : Reg) (s : State) : Step := advance (s.setI (indexPlus s.i (s.readV x)))

/-- `FX29` (R213). -/
def execLdF (x : Reg) (s : State) : Step := advance (s.setI (glyphAddr (s.readV x)))

/-- `FX33` (R214). -/
def execLdB (x : Reg) (s : State) : Step :=
  accessing (.ldB x) checkWrite 3 s (s.setMem (s.mem.writeBytes s.i.toNat (bcdDigits (s.readV x))))

/-- `FX55` (R215). -/
def execStore (x : Reg) (s : State) : Step :=
  accessing (.store x) checkWrite (regCount x) s
    (s.setMem (s.mem.writeBytes s.i.toNat (regBytes s.v x)))

/-- `FX65` (R216). -/
def execLoad (x : Reg) (s : State) : Step :=
  accessing (.load x) checkRead (regCount x) s
    (s.setRegs (loadRegs s.v 0 (s.mem.readBytes s.i.toNat (regCount x))))

end Sys2Proof.Machine
end

