-- ==== Sys2Proof/Machine/Input.lean ====
section
/-! DEFINITION. Input instructions (45_input.md). -/

namespace Sys2Proof.Machine

/-- A key query: a V[X] that names no key is a KeyIndexFault, else a skip on the key's state (R260,
R261, R262). -/
def keyQuery (i : Instr) (x : Reg) (wanted : Bool) (s : State) : Step :=
  if isKey (s.readV x) then skipIf (keyPressed s.key (s.readV x) == wanted) s
  else raiseBy i .keyIndex (some (s.readV x).toNat) s

/-- `EX9E` (R260). -/
def execSkp (x : Reg) (s : State) : Step := keyQuery (.skp x) x true s

/-- `EXA1` (R261). -/
def execSknp (x : Reg) (s : State) : Step := keyQuery (.sknp x) x false s

/-- `FX0A`: the lowest pressed key, on its level; with none the machine awaits a key (R266-R268). -/
def execLdKey (x : Reg) (s : State) : Step :=
  match lowestKey s.key with
  | some k => advance (s.setV x (BitVec.ofNat 8 k))
  | none => awaitKey s

end Sys2Proof.Machine
end

