-- ==== Sys2Proof/Machine/Timers.lean ====
section
/-! DEFINITION. Timer instructions (46_timers.md); the countdown is in Machine/HostOps.lean. -/

namespace Sys2Proof.Machine

/-- `FX07` (R280). -/
def execLdFromDT (x : Reg) (s : State) : Step := advance (s.setV x s.dt)

/-- `FX15` (R281). -/
def execLdDT (x : Reg) (s : State) : Step := advance (s.setDT (s.readV x))

/-- `FX18` (R282). -/
def execLdST (x : Reg) (s : State) : Step := advance (s.setST (s.readV x))

end Sys2Proof.Machine
end

