-- ==== Sys2Proof/WellFormed.lean ====
section
/-! DEFINITION. The checks on what comes from outside the machine. A term of `Instr` needs none: its
fields have the exact widths of 30_encoding.md R92, and every field value is legal (R93, R94). What
can be ill-formed is an instruction WORD (R97) and a program IMAGE (70_reset_and_hazards.md R352).
The word check is written from the rows of spec/opcode_table.json, apart from the decoder, which is
written from the pseudocode of R96. -/

namespace Sys2Proof

/-- A row of the opcode table: the words `w` with `w AND mask = pattern`. -/
structure OpcodeRow where
  mnemonic : String
  pattern : Word
  mask : Word
  deriving DecidableEq, Repr

/-- Whether a word is one of the row's words. -/
def OpcodeRow.covers (r : OpcodeRow) (w : Word) : Bool := (w &&& r.mask) == r.pattern

/-- The rows of the families 0 to 7. -/
def opcodeRowsLow : List OpcodeRow :=
  [⟨"CLS", 0x00E0, 0xFFFF⟩, ⟨"RET", 0x00EE, 0xFFFF⟩, ⟨"JP_addr", 0x1000, 0xF000⟩,
   ⟨"CALL_addr", 0x2000, 0xF000⟩, ⟨"SE_Vx__byte", 0x3000, 0xF000⟩,
   ⟨"SNE_Vx__byte", 0x4000, 0xF000⟩, ⟨"SE_Vx__Vy", 0x5000, 0xF00F⟩,
   ⟨"LD_Vx__byte", 0x6000, 0xF000⟩, ⟨"ADD_Vx__byte", 0x7000, 0xF000⟩]

/-- The rows of family 8. -/
def opcodeRowsEight : List OpcodeRow :=
  [⟨"LD_Vx__Vy", 0x8000, 0xF00F⟩, ⟨"OR_Vx__Vy", 0x8001, 0xF00F⟩, ⟨"AND_Vx__Vy", 0x8002, 0xF00F⟩,
   ⟨"XOR_Vx__Vy", 0x8003, 0xF00F⟩, ⟨"ADD_Vx__Vy", 0x8004, 0xF00F⟩, ⟨"SUB_Vx__Vy", 0x8005, 0xF00F⟩,
   ⟨"SHR_Vx__Vy", 0x8006, 0xF00F⟩, ⟨"SUBN_Vx__Vy", 0x8007, 0xF00F⟩,
   ⟨"SHL_Vx__Vy", 0x800E, 0xF00F⟩]

/-- The rows of the families 9 to E. -/
def opcodeRowsMid : List OpcodeRow :=
  [⟨"SNE_Vx__Vy", 0x9000, 0xF00F⟩, ⟨"LD_I__addr", 0xA000, 0xF000⟩, ⟨"JP_V0__addr", 0xB000, 0xF000⟩,
   ⟨"RND_Vx__byte", 0xC000, 0xF000⟩, ⟨"DRW_Vx__Vy__nibble", 0xD000, 0xF000⟩,
   ⟨"SKP_Vx", 0xE09E, 0xF0FF⟩, ⟨"SKNP_Vx", 0xE0A1, 0xF0FF⟩]

/-- The rows of family F. -/
def opcodeRowsHigh : List OpcodeRow :=
  [⟨"LD_Vx__DT", 0xF007, 0xF0FF⟩, ⟨"LD_Vx__K", 0xF00A, 0xF0FF⟩, ⟨"LD_DT__Vx", 0xF015, 0xF0FF⟩,
   ⟨"LD_ST__Vx", 0xF018, 0xF0FF⟩, ⟨"ADD_I__Vx", 0xF01E, 0xF0FF⟩, ⟨"LD_F__Vx", 0xF029, 0xF0FF⟩,
   ⟨"LD_B__Vx", 0xF033, 0xF0FF⟩, ⟨"LD__I___Vx", 0xF055, 0xF0FF⟩, ⟨"LD_Vx___I", 0xF065, 0xF0FF⟩]

/-- The opcode table, row for row (R95). -/
def opcodeTable : List OpcodeRow :=
  opcodeRowsLow ++ opcodeRowsEight ++ opcodeRowsMid ++ opcodeRowsHigh

/-- A word is well formed when it is in some row of the table; the ill-formed words are those of R97. -/
def wellFormedWord (w : Word) : Bool := opcodeTable.any fun r => r.covers w

/-- A program image is well formed when it fits the work area (R352, R354). -/
def wellFormedImage (bytes : List Byte) : Bool := decide (bytes.length ≤ Config.workArea)

end Sys2Proof
end

