-- ==== Sys2Proof/Machine/HostOps.lean ====
section
/-! DEFINITION. The operations the host drives the core through, but for `step` (60_exceptions.md
R320-R325, 70_reset_and_hazards.md R350-R355, 46_timers.md R286), and the placing of a word to be
fetched. -/

namespace Sys2Proof.Machine

/-- Memory after a reset with a FONT: the font at 0x000-0x04F, 0x00 elsewhere (R350). The font check
does not apply. -/
def fontMemory (font : Vector Byte 80) : Memory :=
  Memory.writeBytes [] Config.fontBase font.toList

/-- `reset()` with the parameter FONT (R350; R10). The draws go on: the spec gives the random source
no reset behaviour (R192; log 2). -/
def resetOp (font : Vector Byte 80) (s : State) : State :=
  { State.reset with mem := fontMemory font, draws := s.draws }

/-- What `loadProgram` returns (R352). -/
inductive LoadResult where
  | ok
  | loadError (len : Nat)
  deriving DecidableEq, Repr

/-- The code of LoadError (R301). -/
def LoadResult.code : LoadResult → Option Nat
  | .ok => none
  | .loadError _ => some 7

/-- `loadProgram(bytes)`: the whole image or nothing; nothing but its bytes changes (R352, R353). -/
def loadProgram (bytes : List Byte) (s : State) : State × LoadResult :=
  if wellFormedImage bytes then (s.setMem (s.mem.writeBytes Config.entryPoint bytes), .ok)
  else (s, .loadError bytes.length)

/-- One timer counts down, floored at 0 (R286, R289). -/
def countDown (t : Byte) : Byte := if t = 0 then 0 else t - 1

/-- `tickTimers()` (R286), in every run state. -/
def tickTimers (s : State) : State := (s.setDT (countDown s.dt)).setST (countDown s.st)

/-- `setKey(key, pressed)`: a key outside 0..15 is ignored (R321). -/
def setKey (key : Int) (pressed : Bool) (s : State) : State :=
  if 0 ≤ key then { s with key := s.key.setIfInBounds key.toNat pressed } else s

/-- `getPixel(x, y)`: off outside the grid (R323). -/
def getPixel (x y : Int) (s : State) : Bool :=
  if 0 ≤ x ∧ x < 64 ∧ 0 ≤ y ∧ y < 32 then pixelAt s.fb (wrapX x.toNat) (wrapY y.toNat) else false

/-- `consumeRedrawFlag()`: the flag, and the state with it cleared (R322). -/
def consumeRedrawFlag (s : State) : Bool × State := (s.redraw, { s with redraw := false })

/-- `soundActive()` (R324, R288). -/
def soundActive (s : State) : Bool := decide (s.st.toNat > 0)

/-- `errors()` (R325). -/
def errorLog (s : State) : List ErrorRecord := s.errors

/-- The launch state of a program: reset, then load (R355), with the default FONT. For an image that the
load turns away (more than 3584 bytes) it is the reset state: DESIGN CHOICE (log 13), since R355 defines
a launch state only after a load that returns ok. Unsafe for a claim over images of any length. -/
def launched (bytes : List Byte) : State := (loadProgram bytes State.reset).1

/-- Where a word that is to be fetched next can stand: at PC, if both its bytes are in memory there,
else at the entry point (log 8). -/
def placeAddr (s : State) : Word :=
  if s.pc.toNat + 1 ≤ Config.lastAddr then s.pc else BitVec.ofNat 16 Config.entryPoint

/-- The state with a word stored where the next step fetches (log 8): the two bytes at PC. A PC no
word can be fetched at, and a halted machine, are set right too. -/
def placeWord (w : Word) (s : State) : State :=
  let at' := placeAddr s
  ((s.setMem (s.mem.writeBytes at'.toNat (wordBytes w))).setPc at').setRun
    (if s.run = .halted then .running else s.run)

end Sys2Proof.Machine
end

