-- ==== Sys2Proof/Machine/Step.lean ====
section
/-! DEFINITION. The step (40_cycle.md R121): every part of it is an operation of Machine/Ops.lean, the
decoder or `exec`. -/

namespace Sys2Proof.Machine

/-- `step()`: halted, fetch, decode, execute, in the order of R121 and R306. -/
def step (s : State) : Host.Outcome State Fault Refusal :=
  if s.run = .halted then stepHalted s
  else
    match fetch s with
    | .error f => stepFetchFault f s
    | .ok w =>
      match decodeWord w with
      | .error _ => stepUndefined w s
      | .ok i => exec i s

/-- The state with the instruction whose bits are `w` (numbered as the opcode table numbers them)
stored where the next step fetches (log 8). -/
def State.withFetchWord (s : State) (nbits w : Nat) : State := placeWord (tableWord nbits w) s

end Sys2Proof.Machine
end

