-- ==== Sys2Proof/Machine/System.lean ====
section
/-! DEFINITION. The whole system: what a step reports to the host (40_cycle.md R124), and the operations
of the host in one type (60_exceptions.md R320), for claims over any interleaving of them. -/

namespace Sys2Proof.Machine

/-- What `step()` returns to the host (R124). -/
inductive StepResult where
  | ok
  | awaitingKey
  | error (k : ErrorKind)
  | halted
  deriving DecidableEq, Repr

/-- The result of the step that took state `s` to state `t`, read off the two states (R124; log 4):
HALTED where RUN was HALTED, ERROR of the record the step appended, AWAITING_KEY where RUN is
AWAITING_KEY, else OK. -/
def stepResult (s t : State) : StepResult :=
  if s.run = .halted then .halted
  else
    match (t.errors.drop s.errors.length).getLast? with
    | some r => .error r.kind
    | none => if t.run = .awaitingKey then .awaitingKey else .ok

/-- An operation the host may call (R320). -/
inductive HostOp where
  | reset (font : Vector Byte 80)
  | loadProgram (bytes : List Byte)
  | step
  | tickTimers
  | setKey (key : Int) (pressed : Bool)
  | getPixel (x y : Int)
  | consumeRedrawFlag
  | soundActive
  | errors
  deriving DecidableEq, Repr

/-- The state an operation leaves; the results of the accessors are functions of Machine/HostOps.lean. -/
def HostOp.apply (op : HostOp) (s : State) : Host.Outcome State Fault Refusal :=
  match op with
  | .reset font => .next (resetOp font s)
  | .loadProgram bytes => .next (Machine.loadProgram bytes s).1
  | .step => Machine.step s
  | .tickTimers => .next (Machine.tickTimers s)
  | .setKey key pressed => .next (Machine.setKey key pressed s)
  | .getPixel _ _ => .next s
  | .consumeRedrawFlag => .next (Machine.consumeRedrawFlag s).2
  | .soundActive => .next s
  | .errors => .next s

/-- A sequence of operations, in the host's order (R12, R70). -/
def runOps : List HostOp → State → Host.Outcome State Fault Refusal
  | [], s => .next s
  | op :: ops, s =>
    match op.apply s with
    | .next t => runOps ops t
    | .fault f => .fault f
    | .refused r => .refused r

end Sys2Proof.Machine
end

