-- ==== Sys2Proof/Safety.lean ====
section
/-! DEFINITION. The terms claims are stated in: what a step leaves unchanged, what taking an error
does, which instruction may write what, the invariant, and the pixels a sprite covers. -/

namespace Sys2Proof.Machine

/-- The fields of State, by name. -/
inductive Field where
  | v | i | pc | stack | sp | dt | st | fb | key | redraw | run | errors | mem | draws
  deriving DecidableEq, Repr

/-- A field holds in `t` what it holds in `s`: memory by every byte, the framebuffer by every pixel,
the registers by every register. -/
def Field.same (f : Field) (s t : State) : Prop :=
  match f with
  | .v => ∀ r, t.readV r = s.readV r
  | .i => t.i = s.i
  | .pc => t.pc = s.pc
  | .stack => t.stack = s.stack
  | .sp => t.sp = s.sp
  | .dt => t.dt = s.dt
  | .st => t.st = s.st
  | .fb => ∀ x y, pixelAt t.fb x y = pixelAt s.fb x y
  | .key => t.key = s.key
  | .redraw => t.redraw = s.redraw
  | .run => t.run = s.run
  | .errors => t.errors = s.errors
  | .mem => ∀ a, t.mem.read a = s.mem.read a
  | .draws => t.draws = s.draws

/-- Every field but those listed is unchanged. -/
def UnchangedExcept (fs : List Field) (s t : State) : Prop := ∀ f, f ∉ fs → f.same s t

/-- Every register but those listed is unchanged. -/
def OnlyRegs (rs : List Reg) (s t : State) : Prop := ∀ r, r ∉ rs → t.readV r = s.readV r

/-- PC is `k` further, modulo 2^16, and RUN is RUNNING (R37, R121, R125). -/
def AdvancedBy (k : Nat) (s t : State) : Prop :=
  t.pc.toNat = (s.pc.toNat + k) % 0x10000 ∧ t.run = .running

/-- A recoverable error was taken and nothing else (R302). -/
def TookRecoverable (k : ErrorKind) (w : Word) (s t : State) : Prop :=
  t.errors = s.errors ++ [⟨k, s.pc, some w, none⟩] ∧ AdvancedBy 2 s t ∧
    UnchangedExcept [.errors, .pc, .run] s t

/-- A halting fault was taken and nothing else (R303). -/
def TookHalting (k : ErrorKind) (w : Option Word) (info : Nat) (s t : State) : Prop :=
  t.errors = s.errors ++ [⟨k, s.pc, w, some info⟩] ∧ t.run = .halted ∧
    UnchangedExcept [.errors, .run] s t

/-- The fields an instruction may write (R33, R34, R39-R43, R46-R48, R60). -/
def mayChange : Instr → List Field
  | .cls => [.fb, .redraw, .pc, .run]
  | .ret => [.sp, .pc, .run, .errors]
  | .call _ => [.stack, .sp, .pc, .run, .errors]
  | .jp _ | .jpV0 _ | .seImm _ _ | .sneImm _ _ | .seReg _ _ | .sneReg _ _ => [.pc, .run]
  | .skp _ | .sknp _ => [.pc, .run, .errors]
  | .ldImm _ _ | .addImm _ _ | .ldReg _ _ | .orReg _ _ | .andReg _ _ | .xorReg _ _ | .addReg _ _
  | .subReg _ _ | .shr _ _ | .subn _ _ | .shl _ _ | .ldFromDT _ | .ldKey _ => [.v, .pc, .run]
  | .rnd _ _ => [.v, .draws, .pc, .run]
  | .ldI _ | .addI _ | .ldF _ => [.i, .pc, .run]
  | .ldB _ | .store _ => [.mem, .pc, .run, .errors]
  | .load _ => [.v, .pc, .run, .errors]
  | .drw _ _ _ => [.fb, .redraw, .v, .pc, .run, .errors]
  | .ldDT _ => [.dt, .pc, .run]
  | .ldST _ => [.st, .pc, .run]

/-- Whether an instruction may write a register: the last column of the table of R33. -/
def mayWriteReg (i : Instr) (r : Reg) : Bool :=
  match i with
  | .ldImm x _ | .addImm x _ | .ldReg x _ | .orReg x _ | .andReg x _ | .xorReg x _ | .rnd x _
  | .ldFromDT x | .ldKey x => r == x
  | .addReg x _ | .subReg x _ | .shr x _ | .subn x _ | .shl x _ => r == x || r == Reg.flag
  | .drw _ _ _ => r == Reg.flag
  | .load x => decide (r.toNat ≤ x.toNat)
  | .cls | .ret | .jp _ | .call _ | .jpV0 _ | .seImm _ _ | .sneImm _ _ | .seReg _ _ | .sneReg _ _
  | .skp _ | .sknp _ | .ldI _ | .addI _ | .ldF _ | .ldB _ | .store _ | .ldDT _ | .ldST _ => false

/-- The next PC of an instruction that raises no error, as an exact integer (the table of R125). -/
def nextPc (i : Instr) (s : State) : Nat :=
  match i with
  | .ret => (s.stack[s.sp.val - 1]).toNat
  | .jp nnn | .call nnn => nnn.toNat
  | .jpV0 nnn => nnn.toNat + (s.readV 0).toNat
  | .seImm x nn => s.pc.toNat + (if s.readV x = nn then 4 else 2)
  | .sneImm x nn => s.pc.toNat + (if s.readV x = nn then 2 else 4)
  | .seReg x y => s.pc.toNat + (if s.readV x = s.readV y then 4 else 2)
  | .sneReg x y => s.pc.toNat + (if s.readV x = s.readV y then 2 else 4)
  | .skp x => s.pc.toNat + (if s.key.toList[(s.readV x).toNat]? = some true then 4 else 2)
  | .sknp x => s.pc.toNat + (if s.key.toList[(s.readV x).toNat]? = some false then 4 else 2)
  | .ldKey _ => s.pc.toNat + (if true ∈ s.key.toList then 2 else 0)
  | .cls | .ldImm _ _ | .addImm _ _ | .ldReg _ _ | .orReg _ _ | .andReg _ _ | .xorReg _ _
  | .addReg _ _ | .subReg _ _ | .shr _ _ | .subn _ _ | .shl _ _ | .ldI _ | .rnd _ _ | .drw _ _ _
  | .ldFromDT _ | .ldDT _ | .ldST _ | .addI _ | .ldF _ | .ldB _ | .store _ | .load _ =>
    s.pc.toNat + 2

/-- What a record may hold, by its kind: who raises it, on what, with what info (R301-R303). -/
def ErrorRecord.wf (r : ErrorRecord) : Prop :=
  match r.kind with
  | .decodeError => r.info = none ∧ ∃ w e, r.word = some w ∧ decodeWord w = .error e
  | .stackOverflow => r.info = none ∧ ∃ nnn, r.word = some (encode (.call nnn))
  | .stackUnderflow => r.info = none ∧ r.word = some (encode .ret)
  | .memoryRange => (∃ a, r.info = some a ∧ 0xFFF < a) ∧
      (r.word = none ∨ ∃ x y n, r.word = some (encode (.drw x y n)) ∨
        r.word = some (encode (.ldB x)) ∨ r.word = some (encode (.store x)) ∨
        r.word = some (encode (.load x)))
  | .fontWrite => (∃ a, r.info = some a ∧ a ≤ 0x04F) ∧
      ∃ x, r.word = some (encode (.ldB x)) ∨ r.word = some (encode (.store x))
  | .keyIndex => (∃ k, r.info = some k ∧ 0x0F < k ∧ k ≤ 0xFF) ∧
      ∃ x, r.word = some (encode (.skp x)) ∨ r.word = some (encode (.sknp x))

/-- The invariant of the machine: memory is in its canonical form, every record of the log is one some
step can raise, and a halted machine's last record is the halting fault, at its PC (R303). -/
structure State.Inv (s : State) : Prop where
  memory : s.mem.wf
  records : ∀ r ∈ s.errors, r.wf
  halted : s.run = .halted → ∃ r, s.errors.getLast? = some r ∧ r.kind.halting = true ∧ r.pc = s.pc

/-- A 1 bit of the `n`-byte sprite at I, drawn at (`x0`, `y0`), falls on pixel (`px`, `py`): bit
`7 - col` of byte `row` on column `x0 + col` modulo 64 and row `y0 + row` modulo 32 (R241, R242, R245). -/
def spriteCovers (s : State) (x0 y0 n : Nat) (px : Fin 64) (py : Fin 32) : Prop :=
  ∃ row col, row < n ∧ col < 8 ∧ (s.mem.read (s.i.toNat + row)).getLsbD (7 - col) = true ∧
    px.val = (x0 + col) % 64 ∧ py.val = (y0 + row) % 32

end Sys2Proof.Machine
end

