-- ==== Sys2Proof/Certificates/Slice0/Obligations.lean ====
section
/-! DEFINITION. The statements for the provers, by the spec's files. "Derived" in a docstring says that
a clause rests on a decision D<n> of 92_eei_decisions.md, on a passage the spec marks as derived, or on
a log entry of the model. -/

open Sys2Proof Sys2Proof.Machine

/-! ## Encoding (30_encoding.md) -/

/-- Decoding and encoding are inverse to each other: a word decodes to an instruction exactly when it is
that instruction's word. So no bit of an encoding is dropped, and two words never decode to one
instruction. Derived (R95 and R96 rest on D12, D13). -/
def Obligations.DecodeAndEncodeAreInverse : Prop :=
  ∀ (w : Word) (i : Instr), decodeWord w = .ok i ↔ encode i = w

/-- The decoder, written from the pseudocode of R96, agrees with the rows of spec/opcode_table.json: it
accepts exactly the words some row covers, a word it accepts is in one row only, the row of its
instruction's mnemonic, and it names every other word as undefined. Derived (D12, D13). -/
def Obligations.DecoderAgreesWithOpcodeTable : Prop :=
  ∀ w : Word,
    ((∃ i, decodeWord w = .ok i) ↔ wellFormedWord w = true) ∧
    (∀ i, decodeWord w = .ok i → ∀ r ∈ opcodeTable,
      (r.covers w = true ↔ r.mnemonic = i.mnemonic)) ∧
    (wellFormedWord w = false → decodeWord w = .error (.undefinedWord w))

/-- The undefined words are those of the table of R97, family by family, in exact integers. Derived
(R97 is derived; D12, D13). -/
def Obligations.UndefinedWordsByFamily : Prop :=
  ∀ w : Word, decodeWord w = .error (.undefinedWord w) ↔
    (w.toNat / 0x1000 = 0x0 ∧ w.toNat ≠ 0x00E0 ∧ w.toNat ≠ 0x00EE) ∨
    (w.toNat / 0x1000 = 0x5 ∧ w.toNat % 0x10 ≠ 0) ∨
    (w.toNat / 0x1000 = 0x8 ∧ w.toNat % 0x10 ∈ [0x8, 0x9, 0xA, 0xB, 0xC, 0xD, 0xF]) ∨
    (w.toNat / 0x1000 = 0x9 ∧ w.toNat % 0x10 ≠ 0) ∨
    (w.toNat / 0x1000 = 0xE ∧ w.toNat % 0x100 ∉ [0x9E, 0xA1]) ∨
    (w.toNat / 0x1000 = 0xF ∧
      w.toNat % 0x100 ∉ [0x07, 0x0A, 0x15, 0x18, 0x1E, 0x29, 0x33, 0x55, 0x65])

/-- Words of the spec's own examples decode to the instructions they stand for. -/
def Obligations.ExampleWordsDecode : Prop :=
  decodeTableWord 16 0x2210 = some (.call 0x210) ∧ decodeTableWord 16 0x332A = some (.seImm 3 0x2A) ∧
  decodeTableWord 16 0x8127 = some (.subn 1 2) ∧ decodeTableWord 16 0xA220 = some (.ldI 0x220) ∧
  decodeTableWord 16 0xD015 = some (.drw 0 1 5) ∧ decodeTableWord 16 0xE49E = some (.skp 4) ∧
  decodeTableWord 16 0xF255 = some (.store 2) ∧ decodeTableWord 16 0x01E0 = none

/-! ## The cycle (40_cycle.md) -/

/-- The fetch reads the word big-endian, at an even or an odd PC, up to 0xFFE. Derived (R66 rests on
D17). -/
def Obligations.FetchIsBigEndian : Prop :=
  ∀ s : State, s.pc.toNat ≤ 0xFFE →
    ∃ w, fetch s = .ok w ∧
      w.toNat = (s.mem.read s.pc.toNat).toNat * 256 + (s.mem.read (s.pc.toNat + 1)).toNat

/-- A step runs the decoded instruction: nothing stands around `exec` but the HALTED check, the fetch
and the decoding. Derived (R121 rests on D5, D17). -/
def Obligations.StepRunsDecodedInstruction : Prop :=
  ∀ (s : State) (i : Instr), s.run ≠ .halted → s.pc.toNat ≤ 0xFFE →
    decodeWord (joinBytes (s.mem.read s.pc.toNat) (s.mem.read (s.pc.toNat + 1))) = .ok i →
    step s = exec i s

/-- A word placed for the next step is run by it, whatever the state. Derived (log 8: the placing is
the model's own). -/
def Obligations.PlacedWordIsRun : Prop :=
  ∀ (s : State) (i : Instr),
    step (s.withFetchWord 16 (encode i).toNat) = exec i (s.withFetchWord 16 (encode i).toNat)

/-- A step in HALTED changes nothing and reports HALTED. Derived (R127 rests on D15). -/
def Obligations.HaltedStepChangesNothing : Prop :=
  ∀ s : State, s.run = .halted → step s = .next s ∧ stepResult s s = .halted

/-- A fetch above 0xFFE is a MemoryRangeFault with no word: of PC where PC is above 0xFFF, of PC + 1
where PC is 0xFFF. Derived (R121, R303 rest on D5, D15). -/
def Obligations.FetchFaultsAboveMemory : Prop :=
  ∀ s : State, s.run ≠ .halted → 0xFFE < s.pc.toNat →
    ∃ t, step s = .next t ∧
      TookHalting .memoryRange none (if s.pc.toNat = 0xFFF then 0x1000 else s.pc.toNat) s t ∧
      stepResult s t = .error .memoryRange

/-- An undefined word appends the DecodeError record, advances PC by 2, sets RUN to RUNNING and changes
nothing else (R122). Derived (code 1 is R301's own, D14; the report is R124's, D33, read off two states,
log 4). -/
def Obligations.UndefinedWordIsRecoverable : Prop :=
  ErrorKind.decodeError.code = 1 ∧
  ∀ (s : State) (w : Word), s.run ≠ .halted → fetch s = .ok w →
    decodeWord w = .error (.undefinedWord w) →
    ∃ t, step s = .next t ∧ TookRecoverable .decodeError w s t ∧
      stepResult s t = .error .decodeError

/-- Every step and every instruction answers a next state: nothing faults, nothing is refused, in any
state. Derived (93_implementation_defined.md, end of section 1; log 3). -/
def Obligations.EveryStepAnswersNext : Prop :=
  (∀ (i : Instr) (s : State), ∃ t, exec i s = .next t) ∧ ∀ s : State, ∃ t, step s = .next t

/-- R124: what a step reports: HALTED where RUN was HALTED; else the kind of the one record appended;
else AWAITING_KEY or OK by RUN. Derived (D33; the report is read off two states, log 4). -/
def Obligations.StepReportsItsOutcome : Prop :=
  ∀ s t : State, step s = .next t →
    (s.run = .halted → stepResult s t = .halted) ∧
    (s.run ≠ .halted →
      (∀ k, stepResult s t = .error k ↔ ∃ r, t.errors = s.errors ++ [r] ∧ r.kind = k) ∧
      (stepResult s t = .awaitingKey ↔ t.errors = s.errors ∧ t.run = .awaitingKey) ∧
      (stepResult s t = .ok ↔ t.errors = s.errors ∧ t.run = .running))

/-- The PC table of R125 as exact integers, for every instruction that a step runs without an error, and
the PC after an error. No addition wraps (R37). Derived (R302, R303 and rows of R125 rest on D2, D3,
D4, D15, D17). -/
def Obligations.StepFollowsPcTable : Prop :=
  ∀ (s t : State) (w : Word) (i : Instr), s.run ≠ .halted → fetch s = .ok w →
    decodeWord w = .ok i → step s = .next t →
    (t.errors = s.errors → t.pc.toNat = nextPc i s) ∧
    (t.errors ≠ s.errors → t.run = .running → t.pc.toNat = s.pc.toNat + 2) ∧
    (t.errors ≠ s.errors → t.run ≠ .running → t.run = .halted ∧ t.pc = s.pc)

/-- A jump to its own address changes nothing but RUN, for ever. Derived (R142 and R129(b) are marked
derived or rest on D33). -/
def Obligations.SelfJumpIsFixedPoint : Prop :=
  ∀ (s : State) (nnn : Addr12) (k : Nat), s.run ≠ .halted → s.pc.toNat = nnn.toNat →
    fetch s = .ok (0x1#4 ++ nnn) →
    runOps (List.replicate (k + 1) .step) s = .next (s.setRun .running)

/-! ## Control flow (41_control_flow.md) -/

/-- R141: JP sets PC to NNN, zero-extended, and changes nothing else. -/
def Obligations.JumpSetsPc : Prop :=
  ∀ nnn : Addr12, decodeWord (0x1#4 ++ nnn) = .ok (.jp nnn) ∧
    ∀ s : State, ∃ t, exec (.jp nnn) s = .next t ∧ t.pc.toNat = nnn.toNat ∧ t.run = .running ∧
      UnchangedExcept [.pc, .run] s t

/-- R143: CALL pushes pc0 + 2 and jumps; with SP = 16 it is a StackOverflowError. Derived (the error's
policy rests on D2). -/
def Obligations.CallPushesReturnAddress : Prop :=
  ∀ nnn : Addr12, decodeWord (0x2#4 ++ nnn) = .ok (.call nnn) ∧
    (∀ s : State, s.sp.val < 16 → ∃ t, exec (.call nnn) s = .next t ∧
      t.sp.val = s.sp.val + 1 ∧ t.pc.toNat = nnn.toNat ∧ t.run = .running ∧
      (∀ j (hj : j < 16), t.stack[j] = if j = s.sp.val then s.pc + 2 else s.stack[j]) ∧
      UnchangedExcept [.stack, .sp, .pc, .run] s t) ∧
    (∀ s : State, s.sp.val = 16 → ∃ t, exec (.call nnn) s = .next t ∧
      TookRecoverable .stackOverflow (0x2#4 ++ nnn) s t)

/-- R140: RET pops the newest entry into PC and leaves it as a stale value; with SP = 0 it is a
StackUnderflowError. Derived (C1, D2, D3). -/
def Obligations.ReturnPopsIntoPc : Prop :=
  decodeWord 0x00EE = .ok .ret ∧
    (∀ s : State, 0 < s.sp.val → ∃ t, exec .ret s = .next t ∧
      t.sp.val = s.sp.val - 1 ∧ t.pc = s.stack[s.sp.val - 1] ∧ t.run = .running ∧
      UnchangedExcept [.sp, .pc, .run] s t) ∧
    (∀ s : State, s.sp.val = 0 → ∃ t, exec .ret s = .next t ∧
      TookRecoverable .stackUnderflow 0x00EE s t)

/-- A call and the return at its target give back PC, at the instruction after the call, and SP.
Derived (R140, R143; C1, D3). -/
def Obligations.ReturnUndoesCall : Prop :=
  ∀ (nnn : Addr12) (s t : State), s.sp.val < 16 → exec (.call nnn) s = .next t →
    ∃ u, exec .ret t = .next u ∧ u.pc = s.pc + 2 ∧ u.sp = s.sp ∧
      UnchangedExcept [.pc, .stack, .run] s u

/-- R144 and R145: 3XNN and 4XNN skip on equal and on different. -/
def Obligations.ImmediateSkipsCompare : Prop :=
  ∀ (x : Reg) (nn : Byte),
    decodeWord (0x3#4 ++ x ++ nn) = .ok (.seImm x nn) ∧
    decodeWord (0x4#4 ++ x ++ nn) = .ok (.sneImm x nn) ∧
    ∀ s : State,
      (∃ t, exec (.seImm x nn) s = .next t ∧ UnchangedExcept [.pc, .run] s t ∧
        AdvancedBy (if (s.readV x).toNat = nn.toNat then 4 else 2) s t) ∧
      (∃ t, exec (.sneImm x nn) s = .next t ∧ UnchangedExcept [.pc, .run] s t ∧
        AdvancedBy (if (s.readV x).toNat = nn.toNat then 2 else 4) s t)

/-- R146 and R147: 5XY0 and 9XY0 skip on equal and on different registers. Derived (that N must be 0
rests on D13). -/
def Obligations.RegisterSkipsCompare : Prop :=
  ∀ x y : Reg,
    decodeWord (0x5#4 ++ x ++ y ++ 0x0#4) = .ok (.seReg x y) ∧
    decodeWord (0x9#4 ++ x ++ y ++ 0x0#4) = .ok (.sneReg x y) ∧
    ∀ s : State,
      (∃ t, exec (.seReg x y) s = .next t ∧ UnchangedExcept [.pc, .run] s t ∧
        AdvancedBy (if (s.readV x).toNat = (s.readV y).toNat then 4 else 2) s t) ∧
      (∃ t, exec (.sneReg x y) s = .next t ∧ UnchangedExcept [.pc, .run] s t ∧
        AdvancedBy (if (s.readV x).toNat = (s.readV y).toNat then 2 else 4) s t)

/-- R148: BNNN jumps to NNN + V0, not masked. Derived (D17, D20). -/
def Obligations.OffsetJumpAddsV0 : Prop :=
  ∀ nnn : Addr12, decodeWord (0xB#4 ++ nnn) = .ok (.jpV0 nnn) ∧
    ∀ s : State, ∃ t, exec (.jpV0 nnn) s = .next t ∧
      t.pc.toNat = nnn.toNat + (s.readV 0).toNat ∧ t.run = .running ∧
      UnchangedExcept [.pc, .run] s t

/-! ## Register, arithmetic, logic and random (42_alu.md) -/

/-- R171: LD Vx, byte. -/
def Obligations.LoadImmediateSetsRegister : Prop :=
  ∀ (x : Reg) (nn : Byte), decodeWord (0x6#4 ++ x ++ nn) = .ok (.ldImm x nn) ∧
    ∀ s : State, ∃ t, exec (.ldImm x nn) s = .next t ∧ t.readV x = nn ∧
      OnlyRegs [x] s t ∧ AdvancedBy 2 s t ∧ UnchangedExcept [.v, .pc, .run] s t

/-- R172: ADD Vx, byte wraps modulo 256 and writes no flag. -/
def Obligations.AddImmediateWrapsWithoutFlag : Prop :=
  ∀ (x : Reg) (nn : Byte), decodeWord (0x7#4 ++ x ++ nn) = .ok (.addImm x nn) ∧
    ∀ s : State, ∃ t, exec (.addImm x nn) s = .next t ∧
      (t.readV x).toNat = ((s.readV x).toNat + nn.toNat) % 256 ∧
      OnlyRegs [x] s t ∧ AdvancedBy 2 s t ∧ UnchangedExcept [.v, .pc, .run] s t

/-- R173: LD Vx, Vy. -/
def Obligations.CopyRegister : Prop :=
  ∀ x y : Reg, decodeWord (0x8#4 ++ x ++ y ++ 0x0#4) = .ok (.ldReg x y) ∧
    ∀ s : State, ∃ t, exec (.ldReg x y) s = .next t ∧ t.readV x = s.readV y ∧
      OnlyRegs [x] s t ∧ AdvancedBy 2 s t ∧ UnchangedExcept [.v, .pc, .run] s t

/-- R174, R175, R176: OR, AND, XOR, bit by bit; VF is changed only as V[X]. Derived (D20). -/
def Obligations.LogicActsBitByBit : Prop :=
  ∀ x y : Reg,
    decodeWord (0x8#4 ++ x ++ y ++ 0x1#4) = .ok (.orReg x y) ∧
    decodeWord (0x8#4 ++ x ++ y ++ 0x2#4) = .ok (.andReg x y) ∧
    decodeWord (0x8#4 ++ x ++ y ++ 0x3#4) = .ok (.xorReg x y) ∧
    ∀ s : State,
      (∃ t, exec (.orReg x y) s = .next t ∧ OnlyRegs [x] s t ∧ AdvancedBy 2 s t ∧
        UnchangedExcept [.v, .pc, .run] s t ∧ ∀ k, k < 8 →
          (t.readV x).getLsbD k = ((s.readV x).getLsbD k || (s.readV y).getLsbD k)) ∧
      (∃ t, exec (.andReg x y) s = .next t ∧ OnlyRegs [x] s t ∧ AdvancedBy 2 s t ∧
        UnchangedExcept [.v, .pc, .run] s t ∧ ∀ k, k < 8 →
          (t.readV x).getLsbD k = ((s.readV x).getLsbD k && (s.readV y).getLsbD k)) ∧
      (∃ t, exec (.xorReg x y) s = .next t ∧ OnlyRegs [x] s t ∧ AdvancedBy 2 s t ∧
        UnchangedExcept [.v, .pc, .run] s t ∧ ∀ k, k < 8 →
          (t.readV x).getLsbD k = ((s.readV x).getLsbD k != (s.readV y).getLsbD k))

/-- R177: ADD Vx, Vy: the sum modulo 256 and its carry in VF; where X = F the sum stands. Derived (the
clause for X = F rests on D8). -/
def Obligations.AddSetsCarry : Prop :=
  ∀ x y : Reg, decodeWord (0x8#4 ++ x ++ y ++ 0x4#4) = .ok (.addReg x y) ∧
    ∀ s : State, ∃ t, exec (.addReg x y) s = .next t ∧
      (t.readV x).toNat = ((s.readV x).toNat + (s.readV y).toNat) % 256 ∧
      (x ≠ 0xF → (t.readV 0xF).toNat = if (s.readV x).toNat + (s.readV y).toNat > 255 then 1 else 0) ∧
      OnlyRegs [x, 0xF] s t ∧ AdvancedBy 2 s t ∧ UnchangedExcept [.v, .pc, .run] s t

/-- R178 and R180: 8XY5 and 8XY7 subtract, in the two orders, modulo 256, with VF = 1 exactly for no
borrow; where X = F the difference stands. Derived (the clauses for X = F rest on D8). -/
def Obligations.SubtractionsSetNoBorrow : Prop :=
  ∀ x y : Reg,
    decodeWord (0x8#4 ++ x ++ y ++ 0x5#4) = .ok (.subReg x y) ∧
    decodeWord (0x8#4 ++ x ++ y ++ 0x7#4) = .ok (.subn x y) ∧
    ∀ s : State,
      (∃ t, exec (.subReg x y) s = .next t ∧
        (t.readV x).toNat = ((s.readV x).toNat + 256 - (s.readV y).toNat) % 256 ∧
        (x ≠ 0xF → (t.readV 0xF).toNat = if (s.readV x).toNat ≥ (s.readV y).toNat then 1 else 0) ∧
        OnlyRegs [x, 0xF] s t ∧ AdvancedBy 2 s t ∧ UnchangedExcept [.v, .pc, .run] s t) ∧
      (∃ t, exec (.subn x y) s = .next t ∧
        (t.readV x).toNat = ((s.readV y).toNat + 256 - (s.readV x).toNat) % 256 ∧
        (x ≠ 0xF → (t.readV 0xF).toNat = if (s.readV y).toNat ≥ (s.readV x).toNat then 1 else 0) ∧
        OnlyRegs [x, 0xF] s t ∧ AdvancedBy 2 s t ∧ UnchangedExcept [.v, .pc, .run] s t)

/-- R179 and R181: the shifts halve and double V[X], whatever Y is, and put the bit moved out in VF;
where X = F the result stands. Derived (D8, D20). -/
def Obligations.ShiftsMoveOneBit : Prop :=
  ∀ x y : Reg,
    decodeWord (0x8#4 ++ x ++ y ++ 0x6#4) = .ok (.shr x y) ∧
    decodeWord (0x8#4 ++ x ++ y ++ 0xE#4) = .ok (.shl x y) ∧
    ∀ s : State,
      (∃ t, exec (.shr x y) s = .next t ∧
        (t.readV x).toNat = (s.readV x).toNat / 2 ∧
        (x ≠ 0xF → (t.readV 0xF).toNat = (s.readV x).toNat % 2) ∧
        OnlyRegs [x, 0xF] s t ∧ AdvancedBy 2 s t ∧ UnchangedExcept [.v, .pc, .run] s t) ∧
      (∃ t, exec (.shl x y) s = .next t ∧
        (t.readV x).toNat = (s.readV x).toNat * 2 % 256 ∧
        (x ≠ 0xF → (t.readV 0xF).toNat = (s.readV x).toNat / 128) ∧
        OnlyRegs [x, 0xF] s t ∧ AdvancedBy 2 s t ∧ UnchangedExcept [.v, .pc, .run] s t)

/-- R190, R192: RND takes one draw per execution and masks it with NN: the result has no bit outside NN,
and with NN = 0xFF it is the draw. The draw is the model's free value (log 2), so this says it for
every value of the draw. Derived (D16). -/
def Obligations.RandomIsMaskedDraw : Prop :=
  ∀ (x : Reg) (nn : Byte), decodeWord (0xC#4 ++ x ++ nn) = .ok (.rnd x nn) ∧
    ∀ s : State, ∃ t, exec (.rnd x nn) s = .next t ∧
      (∀ k, k < 8 → (t.readV x).getLsbD k =
        ((Config.drawRandom s.draws).getLsbD k && nn.getLsbD k)) ∧
      t.draws = s.draws + 1 ∧ OnlyRegs [x] s t ∧ AdvancedBy 2 s t ∧
      UnchangedExcept [.v, .draws, .pc, .run] s t

/-! ## Index register and memory (43_index_memory.md) -/

/-- R211: LD I, addr. -/
def Obligations.LoadIndexSetsI : Prop :=
  ∀ nnn : Addr12, decodeWord (0xA#4 ++ nnn) = .ok (.ldI nnn) ∧
    ∀ s : State, ∃ t, exec (.ldI nnn) s = .next t ∧ t.i.toNat = nnn.toNat ∧
      AdvancedBy 2 s t ∧ UnchangedExcept [.i, .pc, .run] s t

/-- R212 and R213: FX1E adds V[X] to I modulo 2^16 with no flag; FX29 sets I to 5 * V[X], V[X] not
masked. Derived (D18). -/
def Obligations.IndexArithmetic : Prop :=
  ∀ x : Reg,
    decodeWord (0xF#4 ++ x ++ 0x1E#8) = .ok (.addI x) ∧
    decodeWord (0xF#4 ++ x ++ 0x29#8) = .ok (.ldF x) ∧
    ∀ s : State,
      (∃ t, exec (.addI x) s = .next t ∧ t.i.toNat = (s.i.toNat + (s.readV x).toNat) % 0x10000 ∧
        AdvancedBy 2 s t ∧ UnchangedExcept [.i, .pc, .run] s t) ∧
      (∃ t, exec (.ldF x) s = .next t ∧ t.i.toNat = 5 * (s.readV x).toNat ∧
        AdvancedBy 2 s t ∧ UnchangedExcept [.i, .pc, .run] s t)

/-- R214: FX33 stores the three decimal digits of V[X] at I, I+1, I+2 and changes no other byte; where an
address is not allowed it writes nothing and raises the first one's fault. Derived (D5, D6, D29). -/
def Obligations.BcdStoresDecimalDigits : Prop :=
  ∀ x : Reg, decodeWord (0xF#4 ++ x ++ 0x33#8) = .ok (.ldB x) ∧
    (∀ s : State, 0x050 ≤ s.i.toNat → s.i.toNat + 2 ≤ 0xFFF → ∃ t, exec (.ldB x) s = .next t ∧
      (t.mem.read s.i.toNat).toNat = (s.readV x).toNat / 100 ∧
      (t.mem.read (s.i.toNat + 1)).toNat = (s.readV x).toNat / 10 % 10 ∧
      (t.mem.read (s.i.toNat + 2)).toNat = (s.readV x).toNat % 10 ∧
      (∀ a, a < s.i.toNat ∨ s.i.toNat + 2 < a → t.mem.read a = s.mem.read a) ∧
      AdvancedBy 2 s t ∧ UnchangedExcept [.mem, .pc, .run] s t) ∧
    (∀ s : State, s.i.toNat ≤ 0x04F → ∃ t, exec (.ldB x) s = .next t ∧
      TookHalting .fontWrite (some (0xF#4 ++ x ++ 0x33#8)) s.i.toNat s t) ∧
    (∀ s : State, 0xFFF < s.i.toNat + 2 → ∃ t, exec (.ldB x) s = .next t ∧
      TookHalting .memoryRange (some (0xF#4 ++ x ++ 0x33#8)) (max s.i.toNat 0x1000) s t)

/-- R215: FX55 stores V0..VX at I..I+X and changes no other byte; where an address is not allowed it
writes nothing and raises the first one's fault. Derived (D5, D6, D19, D29). -/
def Obligations.StoreWritesRegisters : Prop :=
  ∀ x : Reg, decodeWord (0xF#4 ++ x ++ 0x55#8) = .ok (.store x) ∧
    (∀ s : State, 0x050 ≤ s.i.toNat → s.i.toNat + x.toNat ≤ 0xFFF →
      ∃ t, exec (.store x) s = .next t ∧
      (∀ k : Reg, k.toNat ≤ x.toNat → t.mem.read (s.i.toNat + k.toNat) = s.readV k) ∧
      (∀ a, a < s.i.toNat ∨ s.i.toNat + x.toNat < a → t.mem.read a = s.mem.read a) ∧
      AdvancedBy 2 s t ∧ UnchangedExcept [.mem, .pc, .run] s t) ∧
    (∀ s : State, s.i.toNat ≤ 0x04F → ∃ t, exec (.store x) s = .next t ∧
      TookHalting .fontWrite (some (0xF#4 ++ x ++ 0x55#8)) s.i.toNat s t) ∧
    (∀ s : State, 0xFFF < s.i.toNat + x.toNat → ∃ t, exec (.store x) s = .next t ∧
      TookHalting .memoryRange (some (0xF#4 ++ x ++ 0x55#8)) (max s.i.toNat 0x1000) s t)

/-- R216: FX65 loads V0..VX from I..I+X, the font area too, and no other register; past 0xFFF it reads
nothing and raises the first failing address. Derived (D5, D19, D29). -/
def Obligations.LoadReadsRegisters : Prop :=
  ∀ x : Reg, decodeWord (0xF#4 ++ x ++ 0x65#8) = .ok (.load x) ∧
    (∀ s : State, s.i.toNat + x.toNat ≤ 0xFFF → ∃ t, exec (.load x) s = .next t ∧
      (∀ k : Reg, t.readV k =
        if k.toNat ≤ x.toNat then s.mem.read (s.i.toNat + k.toNat) else s.readV k) ∧
      AdvancedBy 2 s t ∧ UnchangedExcept [.v, .pc, .run] s t) ∧
    (∀ s : State, 0xFFF < s.i.toNat + x.toNat → ∃ t, exec (.load x) s = .next t ∧
      TookHalting .memoryRange (some (0xF#4 ++ x ++ 0x65#8)) (max s.i.toNat 0x1000) s t)

/-- Storing V0..VX and loading them back, whatever the registers hold in between, restores V0..VX.
Derived (R217 is marked derived). -/
def Obligations.StoreThenLoadRestores : Prop :=
  ∀ (x : Reg) (s t u : State) (v : Vector Byte 16), 0x050 ≤ s.i.toNat →
    s.i.toNat + x.toNat ≤ 0xFFF → exec (.store x) s = .next t →
    exec (.load x) (t.setRegs v) = .next u →
    ∀ k : Reg, k.toNat ≤ x.toNat → u.readV k = s.readV k

/-- A word that FX55 stores where PC goes next is the word the next step fetches. Derived (R74 rests on
D24). -/
def Obligations.StoredWordIsFetchedNext : Prop :=
  ∀ (x : Reg) (s t : State), 1 ≤ x.toNat → 0x050 ≤ s.i.toNat → s.i.toNat + x.toNat ≤ 0xFFF →
    s.pc.toNat + 2 = s.i.toNat → exec (.store x) s = .next t →
    fetch t = .ok (joinBytes (s.readV 0) (s.readV 1))

/-- Two memories in canonical form that read the same at every address are the same data (R30; the form
is the model's, log 7). -/
def Obligations.CanonicalMemoriesAreEqual : Prop :=
  ∀ m m' : Memory, m.wf → m'.wf → (∀ a, m.read a = m'.read a) → m = m'

/-! ## Display (44_display.md) -/

/-- R240: CLS turns every pixel off and sets REDRAW. Derived (that REDRAW is set whatever the screen
holds rests on D26). -/
def Obligations.ClearTurnsEveryPixelOff : Prop :=
  decodeWord 0x00E0 = .ok .cls ∧
    ∀ s : State, ∃ t, exec .cls s = .next t ∧ (∀ x y, pixelAt t.fb x y = false) ∧
      t.redraw = true ∧ AdvancedBy 2 s t ∧ UnchangedExcept [.fb, .redraw, .pc, .run] s t

/-- R241 to R245: DRW flips exactly the pixels a 1 bit of the sprite falls on, wrapped on both axes, sets
VF to 1 exactly where one of them was on, sets REDRAW, and does so for N = 0 whatever I is; where a
byte of the sprite is past 0xFFF it draws nothing and raises the first failing address. Derived (D5,
D9, D10, D26, D29; log 11 for the bit order). -/
def Obligations.DrawFlipsSpritePixels : Prop :=
  ∀ (x y : Reg) (n : Nibble), decodeWord (0xD#4 ++ x ++ y ++ n) = .ok (.drw x y n) ∧
    (∀ s : State, n = 0 ∨ s.i.toNat + n.toNat ≤ 0x1000 → ∃ t, exec (.drw x y n) s = .next t ∧
      (∀ px py, spriteCovers s (s.readV x).toNat (s.readV y).toNat n.toNat px py →
        pixelAt t.fb px py = !pixelAt s.fb px py) ∧
      (∀ px py, ¬ spriteCovers s (s.readV x).toNat (s.readV y).toNat n.toNat px py →
        pixelAt t.fb px py = pixelAt s.fb px py) ∧
      ((∃ px py, spriteCovers s (s.readV x).toNat (s.readV y).toNat n.toNat px py ∧
          pixelAt s.fb px py = true) → t.readV 0xF = 1) ∧
      ((∀ px py, spriteCovers s (s.readV x).toNat (s.readV y).toNat n.toNat px py →
          pixelAt s.fb px py = false) → t.readV 0xF = 0) ∧
      t.redraw = true ∧ OnlyRegs [0xF] s t ∧ AdvancedBy 2 s t ∧
      UnchangedExcept [.fb, .redraw, .v, .pc, .run] s t) ∧
    (∀ s : State, n ≠ 0 → 0x1000 < s.i.toNat + n.toNat → ∃ t, exec (.drw x y n) s = .next t ∧
      TookHalting .memoryRange (some (0xD#4 ++ x ++ y ++ n)) (max s.i.toNat 0x1000) s t)

/-- Drawing the same sprite twice at the same position restores every pixel, and the second draw's VF
says whether the first one turned a pixel on (R246's first sentence; for its second see the next
statement and log 12). Derived (R246 is marked derived). -/
def Obligations.DoubleDrawRestoresScreen : Prop :=
  ∀ (x y : Reg) (n : Nibble) (s t u : State), x ≠ 0xF → y ≠ 0xF →
    n = 0 ∨ s.i.toNat + n.toNat ≤ 0x1000 →
    exec (.drw x y n) s = .next t → exec (.drw x y n) t = .next u →
    u.fb = s.fb ∧
    (u.readV 0xF = 1 ↔ ∃ px py,
      spriteCovers s (s.readV x).toNat (s.readV y).toNat n.toNat px py ∧ pixelAt s.fb px py = false)

/-- R246's second sentence read without a condition on the screen: the second draw sets VF = 1 exactly
when the sprite has a 1 bit. It FAILS where every pixel under the sprite was on before the first draw:
the first draw turns them off and the second on, with no collision (R243; vector V5.5 of
95_test_vectors.md; log 12). Derived (R246 is marked derived). -/
def Obligations.SecondDrawAlwaysCollides : Prop :=
  ∀ (x y : Reg) (n : Nibble) (s t u : State), x ≠ 0xF → y ≠ 0xF →
    n = 0 ∨ s.i.toNat + n.toNat ≤ 0x1000 →
    exec (.drw x y n) s = .next t → exec (.drw x y n) t = .next u →
    (u.readV 0xF = 1 ↔ ∃ px py,
      spriteCovers s (s.readV x).toNat (s.readV y).toNat n.toNat px py)

/-- R246's second sentence in the case its own parenthesis describes ("every pixel it turned on"): where
every pixel under the sprite was off before the first draw, the second draw sets VF = 1 exactly when the
sprite has a 1 bit, and VF = 0 otherwise. Derived (R246 is marked derived; log 12). -/
def Obligations.SecondDrawCollidesFromDarkArea : Prop :=
  ∀ (x y : Reg) (n : Nibble) (s t u : State), x ≠ 0xF → y ≠ 0xF →
    n = 0 ∨ s.i.toNat + n.toNat ≤ 0x1000 →
    (∀ px py, spriteCovers s (s.readV x).toNat (s.readV y).toNat n.toNat px py →
      pixelAt s.fb px py = false) →
    exec (.drw x y n) s = .next t → exec (.drw x y n) t = .next u →
    (u.readV 0xF = 1 ↔ ∃ row col, row < n.toNat ∧ col < 8 ∧
      (s.mem.read (s.i.toNat + row)).getLsbD col = true) ∧
    (u.readV 0xF = 0 ∨ u.readV 0xF = 1)

/-! ## Input (45_input.md) -/

/-- R260 to R262: EX9E and EXA1 skip on a pressed and on a released key; a V[X] above 15 is a
KeyIndexFault. Derived (D7). -/
def Obligations.KeyQueriesSkip : Prop :=
  ∀ x : Reg,
    decodeWord (0xE#4 ++ x ++ 0x9E#8) = .ok (.skp x) ∧
    decodeWord (0xE#4 ++ x ++ 0xA1#8) = .ok (.sknp x) ∧
    (∀ (s : State) (k : Nat) (hk : k < 16), (s.readV x).toNat = k →
      (∃ t, exec (.skp x) s = .next t ∧ UnchangedExcept [.pc, .run] s t ∧
        AdvancedBy (if s.key[k] = true then 4 else 2) s t) ∧
      (∃ t, exec (.sknp x) s = .next t ∧ UnchangedExcept [.pc, .run] s t ∧
        AdvancedBy (if s.key[k] = true then 2 else 4) s t)) ∧
    (∀ s : State, 0x0F < (s.readV x).toNat →
      (∃ t, exec (.skp x) s = .next t ∧
        TookHalting .keyIndex (some (0xE#4 ++ x ++ 0x9E#8)) (s.readV x).toNat s t) ∧
      (∃ t, exec (.sknp x) s = .next t ∧
        TookHalting .keyIndex (some (0xE#4 ++ x ++ 0xA1#8)) (s.readV x).toNat s t))

/-- R266 to R268: FX0A takes the lowest pressed key, on the level of the key state; with none pressed it
sets RUN to AWAITING_KEY and changes nothing else, PC included. Derived (D4). -/
def Obligations.KeyWaitTakesLowestKey : Prop :=
  ∀ x : Reg, decodeWord (0xF#4 ++ x ++ 0x0A#8) = .ok (.ldKey x) ∧
    (∀ (s : State) (k : Nat) (hk : k < 16), s.key[k] = true →
      (∀ j (hj : j < k), s.key[j] = false) →
      ∃ t, exec (.ldKey x) s = .next t ∧ (t.readV x).toNat = k ∧ OnlyRegs [x] s t ∧
        AdvancedBy 2 s t ∧ UnchangedExcept [.v, .pc, .run] s t) ∧
    (∀ s : State, (∀ k (hk : k < 16), s.key[k] = false) →
      ∃ t, exec (.ldKey x) s = .next t ∧ t.run = .awaitingKey ∧ UnchangedExcept [.run] s t)

/-- While no key is pressed, FX0A waits through any number of steps and nothing but RUN changes. Derived
(R128 and R269 are marked derived). -/
def Obligations.KeyWaitHoldsForever : Prop :=
  ∀ (s : State) (x : Reg) (k : Nat), s.run ≠ .halted → fetch s = .ok (0xF#4 ++ x ++ 0x0A#8) →
    (∀ j (hj : j < 16), s.key[j] = false) →
    runOps (List.replicate (k + 1) .step) s = .next (s.setRun .awaitingKey)

/-! ## Timers (46_timers.md) -/

/-- R280: FX07 reads the delay timer and leaves it. -/
def Obligations.ReadDelayTimer : Prop :=
  ∀ x : Reg, decodeWord (0xF#4 ++ x ++ 0x07#8) = .ok (.ldFromDT x) ∧
    ∀ s : State, ∃ t, exec (.ldFromDT x) s = .next t ∧ t.readV x = s.dt ∧ OnlyRegs [x] s t ∧
      AdvancedBy 2 s t ∧ UnchangedExcept [.v, .pc, .run] s t

/-- R281 and R282: FX15 and FX18 set the timers; a sound of V[X] ticks follows FX18. -/
def Obligations.SetTimers : Prop :=
  ∀ x : Reg,
    decodeWord (0xF#4 ++ x ++ 0x15#8) = .ok (.ldDT x) ∧
    decodeWord (0xF#4 ++ x ++ 0x18#8) = .ok (.ldST x) ∧
    ∀ s : State,
      (∃ t, exec (.ldDT x) s = .next t ∧ t.dt = s.readV x ∧ AdvancedBy 2 s t ∧
        UnchangedExcept [.dt, .pc, .run] s t ∧
        ((s.readV x).toNat = 0 → ∀ k, ((tickTimers^[k]) t).dt = 0)) ∧
      (∃ t, exec (.ldST x) s = .next t ∧ t.st = s.readV x ∧ AdvancedBy 2 s t ∧
        UnchangedExcept [.st, .pc, .run] s t ∧
        ∀ k, soundActive ((tickTimers^[k]) t) = decide (k < (s.readV x).toNat))

/-- R286 and R289: k ticks take k from each timer, floored at 0, in every run state, and change nothing
else. Derived (D27; R289 is marked derived). -/
def Obligations.TicksCountDownToZero : Prop :=
  ∀ (k : Nat) (s : State),
    ((tickTimers^[k]) s).dt.toNat = s.dt.toNat - k ∧ ((tickTimers^[k]) s).st.toNat = s.st.toNat - k ∧
      UnchangedExcept [.dt, .st] s ((tickTimers^[k]) s)

/-! ## The host's operations (60_exceptions.md, 70_reset_and_hazards.md) -/

/-- R321: setKey sets the one key it names, ignores a number outside 0..15, changes nothing else, and is
the only writer of KEY besides reset. -/
def Obligations.SetKeyWritesOneKey : Prop :=
  (∀ (key : Int) (pressed : Bool) (s : State),
    (∀ (k : Nat) (hk : k < 16), (setKey key pressed s).key[k] =
      if key = (k : Int) then pressed else s.key[k]) ∧
    (key < 0 ∨ 15 < key → setKey key pressed s = s) ∧
    UnchangedExcept [.key] s (setKey key pressed s)) ∧
  ∀ (op : HostOp) (s t : State), op.apply s = .next t → (∀ k p, op ≠ .setKey k p) →
    (∀ f, op ≠ .reset f) → t.key = s.key

/-- R322, R323 and R324: consumeRedrawFlag gives the flag and clears it; getPixel gives the pixel, or off
outside the grid; soundActive is ST > 0; the two last change nothing. -/
def Obligations.HostReadsDisplayAndSound : Prop :=
  ∀ s : State,
    ((consumeRedrawFlag s).1 = s.redraw ∧ (consumeRedrawFlag s).2.redraw = false ∧
      UnchangedExcept [.redraw] s (consumeRedrawFlag s).2) ∧
    (∀ (x y : Int) (px : Fin 64) (py : Fin 32), x = (px.val : Int) → y = (py.val : Int) →
      getPixel x y s = pixelAt s.fb px py) ∧
    (∀ x y : Int, (x < 0 ∨ 63 < x ∨ y < 0 ∨ 31 < y) → getPixel x y s = false) ∧
    (∀ x y : Int, (HostOp.getPixel x y).apply s = .next s) ∧
    (soundActive s = true ↔ 0 < s.st.toNat) ∧ HostOp.soundActive.apply s = .next s

/-- CLS and a draw that is not faulted set REDRAW, reset sets it, the screen never changes without it
being set, and only consumeRedrawFlag clears it (R43). Derived (that CLS and DXYN set it even where no
pixel changes rests on D26, for N = 0 on D9; that a faulted draw is left out rests on D5 and D29). -/
def Obligations.RedrawFlagFollowsScreen : Prop :=
  (∀ s t, exec .cls s = .next t → t.redraw = true) ∧
  (∀ x y n s t, exec (.drw x y n) s = .next t → t.run = .running → t.redraw = true) ∧
  (∀ f s, (resetOp f s).redraw = true) ∧
  (∀ (op : HostOp) (s t : State), op.apply s = .next t → t.fb ≠ s.fb → t.redraw = true) ∧
  (∀ (op : HostOp) (s t : State), op.apply s = .next t → op ≠ .consumeRedrawFlag →
    s.redraw = true → t.redraw = true)

/-- R350 and R50: reset, from any state and with any FONT, leaves every field of the spec at its reset
value, and memory holding the FONT at 0x000-0x04F and 0x00 at 0x050-0xFFF. Derived (RUN and ERRORS rest
on D28; FONT is a parameter, D11, log 1; that an address above 0xFFF reads as 0x00 too is the model's
choice, log 7). Nothing is said of the model's own field `draws`, which reset leaves (log 2). -/
def Obligations.ResetSetsEveryField : Prop :=
  ∀ (font : Vector Byte 80) (s : State),
    (∀ r, (resetOp font s).readV r = 0) ∧ (resetOp font s).i = 0 ∧ (resetOp font s).pc = 0x200 ∧
    (∀ j (hj : j < 16), (resetOp font s).stack[j] = 0) ∧ (resetOp font s).sp.val = 0 ∧
    (resetOp font s).dt = 0 ∧ (resetOp font s).st = 0 ∧
    (∀ x y, pixelAt (resetOp font s).fb x y = false) ∧
    (∀ k (hk : k < 16), (resetOp font s).key[k] = false) ∧ (resetOp font s).redraw = true ∧
    (resetOp font s).run = .running ∧ (resetOp font s).errors = [] ∧
    (∀ a (ha : a < 80), (resetOp font s).mem.read a = font[a]) ∧
    (∀ a, 0x050 ≤ a → (resetOp font s).mem.read a = 0)

/-- R352 to R354: a program of at most 3584 bytes is stored from 0x200 on and nothing else changes, PC
included; a longer one is a LoadError of its length and changes nothing. Derived (C3, C6, D22). -/
def Obligations.LoadProgramIsAllOrNothing : Prop :=
  ∀ (bytes : List Byte) (s : State),
    (bytes.length ≤ 3584 → (loadProgram bytes s).2 = .ok ∧
      (∀ k (hk : k < bytes.length), (loadProgram bytes s).1.mem.read (0x200 + k) = bytes[k]) ∧
      (∀ a, a < 0x200 ∨ 0x200 + bytes.length ≤ a →
        (loadProgram bytes s).1.mem.read a = s.mem.read a) ∧
      UnchangedExcept [.mem] s (loadProgram bytes s).1) ∧
    (3584 < bytes.length → loadProgram bytes s = (s, .loadError bytes.length))

/-! ## The whole machine -/

/-- What an instruction may write: every field outside `mayChange`, and every register outside
`mayWriteReg` (the table of R33), is as it was, whatever the instruction answers. Derived (R33 and
R48 are marked derived; R34, R39 rest on D3, D19). -/
def Obligations.OnlyNamedWritersWrite : Prop :=
  ∀ (i : Instr) (s t : State), exec i s = .next t →
    UnchangedExcept (mayChange i) s t ∧ ∀ r, mayWriteReg i r = false → t.readV r = s.readV r

/-- Errors are precise and the log only grows: a step appends nothing or one record, which has the
step's PC and the word it fetched (none where the fetch fails), and a step that appends one changes
only ERRORS, PC and RUN. Derived (R300, R304-R306 rest on D14, D29, D30 or are marked derived). -/
def Obligations.ErrorsArePrecise : Prop :=
  ∀ s t : State, step s = .next t →
    t.errors = s.errors ∨
    ∃ r, t.errors = s.errors ++ [r] ∧ r.pc = s.pc ∧ UnchangedExcept [.errors, .pc, .run] s t ∧
      (r.word = none ∧ (∃ f, fetch s = .error f) ∨ ∃ w, r.word = some w ∧ fetch s = .ok w)

/-- The font is immutable: no operation of the host but reset, steps included, changes a byte of
0x000-0x04F, in any state. Derived (R62 rests on D6). -/
def Obligations.FontAreaIsImmutable : Prop :=
  ∀ (ops : List HostOp) (s t : State), (∀ op ∈ ops, ∀ f, op ≠ .reset f) →
    runOps ops s = .next t → ∀ a, a ≤ 0x04F → t.mem.read a = s.mem.read a

/-- Only reset leaves HALTED: through every other operation RUN stays HALTED, and PC, the registers, I,
the stack and the log stay as they are. Derived (R46, R303, R331 rest on D15). -/
def Obligations.OnlyResetLeavesHalted : Prop :=
  ∀ (ops : List HostOp) (s t : State), (∀ op ∈ ops, ∀ f, op ≠ .reset f) → s.run = .halted →
    runOps ops s = .next t → UnchangedExcept [.mem, .dt, .st, .key, .redraw] s t

/-- The invariant holds at reset. Derived (log 7). -/
def Obligations.InvariantHoldsAtReset : Prop := State.reset.Inv

/-- Every step keeps the invariant. Derived (R301-R303 rest on D14, D15; the canonical form of memory is
log 7). -/
def Obligations.InvariantKeptByEveryStep : Prop :=
  ∀ s t : State, s.Inv → step s = .next t → t.Inv

/-- Every sequence of host operations, steps, resets with any FONT and loads among them, keeps the
invariant, in any order (R12, R320). Derived (as the statement before). -/
def Obligations.InvariantKeptByEveryRun : Prop :=
  ∀ (ops : List HostOp) (s t : State), s.Inv → runOps ops s = .next t → t.Inv
end

