-- ==== Sys2Proof/Laws/State.lean ====
section
/-! SUPPORT. What each update of Machine/Ops.lean does to each field of State: one lemma per field per
update, so that no later proof unfolds a record update. The register file is read through `readV`. -/

namespace Sys2Proof.Machine

variable (s : State)

/-! `setV` -/

@[simp] theorem State.setV_v (r : Reg) (b : Byte) : (s.setV r b).v = s.v.set r.toNat b := rfl
@[simp] theorem State.setV_i (r : Reg) (b : Byte) : (s.setV r b).i = s.i := rfl
@[simp] theorem State.setV_pc (r : Reg) (b : Byte) : (s.setV r b).pc = s.pc := rfl
@[simp] theorem State.setV_stack (r : Reg) (b : Byte) : (s.setV r b).stack = s.stack := rfl
@[simp] theorem State.setV_sp (r : Reg) (b : Byte) : (s.setV r b).sp = s.sp := rfl
@[simp] theorem State.setV_dt (r : Reg) (b : Byte) : (s.setV r b).dt = s.dt := rfl
@[simp] theorem State.setV_st (r : Reg) (b : Byte) : (s.setV r b).st = s.st := rfl
@[simp] theorem State.setV_fb (r : Reg) (b : Byte) : (s.setV r b).fb = s.fb := rfl
@[simp] theorem State.setV_key (r : Reg) (b : Byte) : (s.setV r b).key = s.key := rfl
@[simp] theorem State.setV_redraw (r : Reg) (b : Byte) : (s.setV r b).redraw = s.redraw := rfl
@[simp] theorem State.setV_run (r : Reg) (b : Byte) : (s.setV r b).run = s.run := rfl
@[simp] theorem State.setV_errors (r : Reg) (b : Byte) : (s.setV r b).errors = s.errors := rfl
@[simp] theorem State.setV_mem (r : Reg) (b : Byte) : (s.setV r b).mem = s.mem := rfl
@[simp] theorem State.setV_draws (r : Reg) (b : Byte) : (s.setV r b).draws = s.draws := rfl

/-! `setRegs` -/

@[simp] theorem State.setRegs_v (v : Vector Byte 16) : (s.setRegs v).v = v := rfl
@[simp] theorem State.setRegs_i (v : Vector Byte 16) : (s.setRegs v).i = s.i := rfl
@[simp] theorem State.setRegs_pc (v : Vector Byte 16) : (s.setRegs v).pc = s.pc := rfl
@[simp] theorem State.setRegs_stack (v : Vector Byte 16) : (s.setRegs v).stack = s.stack := rfl
@[simp] theorem State.setRegs_sp (v : Vector Byte 16) : (s.setRegs v).sp = s.sp := rfl
@[simp] theorem State.setRegs_dt (v : Vector Byte 16) : (s.setRegs v).dt = s.dt := rfl
@[simp] theorem State.setRegs_st (v : Vector Byte 16) : (s.setRegs v).st = s.st := rfl
@[simp] theorem State.setRegs_fb (v : Vector Byte 16) : (s.setRegs v).fb = s.fb := rfl
@[simp] theorem State.setRegs_key (v : Vector Byte 16) : (s.setRegs v).key = s.key := rfl
@[simp] theorem State.setRegs_redraw (v : Vector Byte 16) : (s.setRegs v).redraw = s.redraw := rfl
@[simp] theorem State.setRegs_run (v : Vector Byte 16) : (s.setRegs v).run = s.run := rfl
@[simp] theorem State.setRegs_errors (v : Vector Byte 16) : (s.setRegs v).errors = s.errors := rfl
@[simp] theorem State.setRegs_mem (v : Vector Byte 16) : (s.setRegs v).mem = s.mem := rfl
@[simp] theorem State.setRegs_draws (v : Vector Byte 16) : (s.setRegs v).draws = s.draws := rfl

/-! `setI` -/

@[simp] theorem State.setI_v (w : Word) : (s.setI w).v = s.v := rfl
@[simp] theorem State.setI_i (w : Word) : (s.setI w).i = w := rfl
@[simp] theorem State.setI_pc (w : Word) : (s.setI w).pc = s.pc := rfl
@[simp] theorem State.setI_stack (w : Word) : (s.setI w).stack = s.stack := rfl
@[simp] theorem State.setI_sp (w : Word) : (s.setI w).sp = s.sp := rfl
@[simp] theorem State.setI_dt (w : Word) : (s.setI w).dt = s.dt := rfl
@[simp] theorem State.setI_st (w : Word) : (s.setI w).st = s.st := rfl
@[simp] theorem State.setI_fb (w : Word) : (s.setI w).fb = s.fb := rfl
@[simp] theorem State.setI_key (w : Word) : (s.setI w).key = s.key := rfl
@[simp] theorem State.setI_redraw (w : Word) : (s.setI w).redraw = s.redraw := rfl
@[simp] theorem State.setI_run (w : Word) : (s.setI w).run = s.run := rfl
@[simp] theorem State.setI_errors (w : Word) : (s.setI w).errors = s.errors := rfl
@[simp] theorem State.setI_mem (w : Word) : (s.setI w).mem = s.mem := rfl
@[simp] theorem State.setI_draws (w : Word) : (s.setI w).draws = s.draws := rfl

/-! `setPc` -/

@[simp] theorem State.setPc_v (w : Word) : (s.setPc w).v = s.v := rfl
@[simp] theorem State.setPc_i (w : Word) : (s.setPc w).i = s.i := rfl
@[simp] theorem State.setPc_pc (w : Word) : (s.setPc w).pc = w := rfl
@[simp] theorem State.setPc_stack (w : Word) : (s.setPc w).stack = s.stack := rfl
@[simp] theorem State.setPc_sp (w : Word) : (s.setPc w).sp = s.sp := rfl
@[simp] theorem State.setPc_dt (w : Word) : (s.setPc w).dt = s.dt := rfl
@[simp] theorem State.setPc_st (w : Word) : (s.setPc w).st = s.st := rfl
@[simp] theorem State.setPc_fb (w : Word) : (s.setPc w).fb = s.fb := rfl
@[simp] theorem State.setPc_key (w : Word) : (s.setPc w).key = s.key := rfl
@[simp] theorem State.setPc_redraw (w : Word) : (s.setPc w).redraw = s.redraw := rfl
@[simp] theorem State.setPc_run (w : Word) : (s.setPc w).run = s.run := rfl
@[simp] theorem State.setPc_errors (w : Word) : (s.setPc w).errors = s.errors := rfl
@[simp] theorem State.setPc_mem (w : Word) : (s.setPc w).mem = s.mem := rfl
@[simp] theorem State.setPc_draws (w : Word) : (s.setPc w).draws = s.draws := rfl

/-! `setRun` -/

@[simp] theorem State.setRun_v (r : RunState) : (s.setRun r).v = s.v := rfl
@[simp] theorem State.setRun_i (r : RunState) : (s.setRun r).i = s.i := rfl
@[simp] theorem State.setRun_pc (r : RunState) : (s.setRun r).pc = s.pc := rfl
@[simp] theorem State.setRun_stack (r : RunState) : (s.setRun r).stack = s.stack := rfl
@[simp] theorem State.setRun_sp (r : RunState) : (s.setRun r).sp = s.sp := rfl
@[simp] theorem State.setRun_dt (r : RunState) : (s.setRun r).dt = s.dt := rfl
@[simp] theorem State.setRun_st (r : RunState) : (s.setRun r).st = s.st := rfl
@[simp] theorem State.setRun_fb (r : RunState) : (s.setRun r).fb = s.fb := rfl
@[simp] theorem State.setRun_key (r : RunState) : (s.setRun r).key = s.key := rfl
@[simp] theorem State.setRun_redraw (r : RunState) : (s.setRun r).redraw = s.redraw := rfl
@[simp] theorem State.setRun_run (r : RunState) : (s.setRun r).run = r := rfl
@[simp] theorem State.setRun_errors (r : RunState) : (s.setRun r).errors = s.errors := rfl
@[simp] theorem State.setRun_mem (r : RunState) : (s.setRun r).mem = s.mem := rfl
@[simp] theorem State.setRun_draws (r : RunState) : (s.setRun r).draws = s.draws := rfl

/-! `setDT` -/

@[simp] theorem State.setDT_v (b : Byte) : (s.setDT b).v = s.v := rfl
@[simp] theorem State.setDT_i (b : Byte) : (s.setDT b).i = s.i := rfl
@[simp] theorem State.setDT_pc (b : Byte) : (s.setDT b).pc = s.pc := rfl
@[simp] theorem State.setDT_stack (b : Byte) : (s.setDT b).stack = s.stack := rfl
@[simp] theorem State.setDT_sp (b : Byte) : (s.setDT b).sp = s.sp := rfl
@[simp] theorem State.setDT_dt (b : Byte) : (s.setDT b).dt = b := rfl
@[simp] theorem State.setDT_st (b : Byte) : (s.setDT b).st = s.st := rfl
@[simp] theorem State.setDT_fb (b : Byte) : (s.setDT b).fb = s.fb := rfl
@[simp] theorem State.setDT_key (b : Byte) : (s.setDT b).key = s.key := rfl
@[simp] theorem State.setDT_redraw (b : Byte) : (s.setDT b).redraw = s.redraw := rfl
@[simp] theorem State.setDT_run (b : Byte) : (s.setDT b).run = s.run := rfl
@[simp] theorem State.setDT_errors (b : Byte) : (s.setDT b).errors = s.errors := rfl
@[simp] theorem State.setDT_mem (b : Byte) : (s.setDT b).mem = s.mem := rfl
@[simp] theorem State.setDT_draws (b : Byte) : (s.setDT b).draws = s.draws := rfl

/-! `setST` -/

@[simp] theorem State.setST_v (b : Byte) : (s.setST b).v = s.v := rfl
@[simp] theorem State.setST_i (b : Byte) : (s.setST b).i = s.i := rfl
@[simp] theorem State.setST_pc (b : Byte) : (s.setST b).pc = s.pc := rfl
@[simp] theorem State.setST_stack (b : Byte) : (s.setST b).stack = s.stack := rfl
@[simp] theorem State.setST_sp (b : Byte) : (s.setST b).sp = s.sp := rfl
@[simp] theorem State.setST_dt (b : Byte) : (s.setST b).dt = s.dt := rfl
@[simp] theorem State.setST_st (b : Byte) : (s.setST b).st = b := rfl
@[simp] theorem State.setST_fb (b : Byte) : (s.setST b).fb = s.fb := rfl
@[simp] theorem State.setST_key (b : Byte) : (s.setST b).key = s.key := rfl
@[simp] theorem State.setST_redraw (b : Byte) : (s.setST b).redraw = s.redraw := rfl
@[simp] theorem State.setST_run (b : Byte) : (s.setST b).run = s.run := rfl
@[simp] theorem State.setST_errors (b : Byte) : (s.setST b).errors = s.errors := rfl
@[simp] theorem State.setST_mem (b : Byte) : (s.setST b).mem = s.mem := rfl
@[simp] theorem State.setST_draws (b : Byte) : (s.setST b).draws = s.draws := rfl

/-! `setScreen` -/

@[simp] theorem State.setScreen_v (f : Framebuffer) : (s.setScreen f).v = s.v := rfl
@[simp] theorem State.setScreen_i (f : Framebuffer) : (s.setScreen f).i = s.i := rfl
@[simp] theorem State.setScreen_pc (f : Framebuffer) : (s.setScreen f).pc = s.pc := rfl
@[simp] theorem State.setScreen_stack (f : Framebuffer) : (s.setScreen f).stack = s.stack := rfl
@[simp] theorem State.setScreen_sp (f : Framebuffer) : (s.setScreen f).sp = s.sp := rfl
@[simp] theorem State.setScreen_dt (f : Framebuffer) : (s.setScreen f).dt = s.dt := rfl
@[simp] theorem State.setScreen_st (f : Framebuffer) : (s.setScreen f).st = s.st := rfl
@[simp] theorem State.setScreen_fb (f : Framebuffer) : (s.setScreen f).fb = f := rfl
@[simp] theorem State.setScreen_key (f : Framebuffer) : (s.setScreen f).key = s.key := rfl
@[simp] theorem State.setScreen_redraw (f : Framebuffer) : (s.setScreen f).redraw = true := rfl
@[simp] theorem State.setScreen_run (f : Framebuffer) : (s.setScreen f).run = s.run := rfl
@[simp] theorem State.setScreen_errors (f : Framebuffer) : (s.setScreen f).errors = s.errors := rfl
@[simp] theorem State.setScreen_mem (f : Framebuffer) : (s.setScreen f).mem = s.mem := rfl
@[simp] theorem State.setScreen_draws (f : Framebuffer) : (s.setScreen f).draws = s.draws := rfl

/-! `setMem` -/

@[simp] theorem State.setMem_v (m : Memory) : (s.setMem m).v = s.v := rfl
@[simp] theorem State.setMem_i (m : Memory) : (s.setMem m).i = s.i := rfl
@[simp] theorem State.setMem_pc (m : Memory) : (s.setMem m).pc = s.pc := rfl
@[simp] theorem State.setMem_stack (m : Memory) : (s.setMem m).stack = s.stack := rfl
@[simp] theorem State.setMem_sp (m : Memory) : (s.setMem m).sp = s.sp := rfl
@[simp] theorem State.setMem_dt (m : Memory) : (s.setMem m).dt = s.dt := rfl
@[simp] theorem State.setMem_st (m : Memory) : (s.setMem m).st = s.st := rfl
@[simp] theorem State.setMem_fb (m : Memory) : (s.setMem m).fb = s.fb := rfl
@[simp] theorem State.setMem_key (m : Memory) : (s.setMem m).key = s.key := rfl
@[simp] theorem State.setMem_redraw (m : Memory) : (s.setMem m).redraw = s.redraw := rfl
@[simp] theorem State.setMem_run (m : Memory) : (s.setMem m).run = s.run := rfl
@[simp] theorem State.setMem_errors (m : Memory) : (s.setMem m).errors = s.errors := rfl
@[simp] theorem State.setMem_mem (m : Memory) : (s.setMem m).mem = m := rfl
@[simp] theorem State.setMem_draws (m : Memory) : (s.setMem m).draws = s.draws := rfl

/-! `logError` -/

@[simp] theorem State.logError_v (r : ErrorRecord) : (s.logError r).v = s.v := rfl
@[simp] theorem State.logError_i (r : ErrorRecord) : (s.logError r).i = s.i := rfl
@[simp] theorem State.logError_pc (r : ErrorRecord) : (s.logError r).pc = s.pc := rfl
@[simp] theorem State.logError_stack (r : ErrorRecord) : (s.logError r).stack = s.stack := rfl
@[simp] theorem State.logError_sp (r : ErrorRecord) : (s.logError r).sp = s.sp := rfl
@[simp] theorem State.logError_dt (r : ErrorRecord) : (s.logError r).dt = s.dt := rfl
@[simp] theorem State.logError_st (r : ErrorRecord) : (s.logError r).st = s.st := rfl
@[simp] theorem State.logError_fb (r : ErrorRecord) : (s.logError r).fb = s.fb := rfl
@[simp] theorem State.logError_key (r : ErrorRecord) : (s.logError r).key = s.key := rfl
@[simp] theorem State.logError_redraw (r : ErrorRecord) : (s.logError r).redraw = s.redraw := rfl
@[simp] theorem State.logError_run (r : ErrorRecord) : (s.logError r).run = s.run := rfl
@[simp] theorem State.logError_errors (r : ErrorRecord) :
    (s.logError r).errors = s.errors ++ [r] := rfl
@[simp] theorem State.logError_mem (r : ErrorRecord) : (s.logError r).mem = s.mem := rfl
@[simp] theorem State.logError_draws (r : ErrorRecord) : (s.logError r).draws = s.draws := rfl

/-! `countDraw` -/

@[simp] theorem State.countDraw_v : (s.countDraw).v = s.v := rfl
@[simp] theorem State.countDraw_i : (s.countDraw).i = s.i := rfl
@[simp] theorem State.countDraw_pc : (s.countDraw).pc = s.pc := rfl
@[simp] theorem State.countDraw_stack : (s.countDraw).stack = s.stack := rfl
@[simp] theorem State.countDraw_sp : (s.countDraw).sp = s.sp := rfl
@[simp] theorem State.countDraw_dt : (s.countDraw).dt = s.dt := rfl
@[simp] theorem State.countDraw_st : (s.countDraw).st = s.st := rfl
@[simp] theorem State.countDraw_fb : (s.countDraw).fb = s.fb := rfl
@[simp] theorem State.countDraw_key : (s.countDraw).key = s.key := rfl
@[simp] theorem State.countDraw_redraw : (s.countDraw).redraw = s.redraw := rfl
@[simp] theorem State.countDraw_run : (s.countDraw).run = s.run := rfl
@[simp] theorem State.countDraw_errors : (s.countDraw).errors = s.errors := rfl
@[simp] theorem State.countDraw_mem : (s.countDraw).mem = s.mem := rfl
@[simp] theorem State.countDraw_draws : (s.countDraw).draws = s.draws + 1 := rfl

/-! `pop` -/

@[simp] theorem State.pop_v : (s.pop).v = s.v := rfl
@[simp] theorem State.pop_i : (s.pop).i = s.i := rfl
@[simp] theorem State.pop_pc : (s.pop).pc = s.pc := rfl
@[simp] theorem State.pop_stack : (s.pop).stack = s.stack := rfl
@[simp] theorem State.pop_dt : (s.pop).dt = s.dt := rfl
@[simp] theorem State.pop_st : (s.pop).st = s.st := rfl
@[simp] theorem State.pop_fb : (s.pop).fb = s.fb := rfl
@[simp] theorem State.pop_key : (s.pop).key = s.key := rfl
@[simp] theorem State.pop_redraw : (s.pop).redraw = s.redraw := rfl
@[simp] theorem State.pop_run : (s.pop).run = s.run := rfl
@[simp] theorem State.pop_errors : (s.pop).errors = s.errors := rfl
@[simp] theorem State.pop_mem : (s.pop).mem = s.mem := rfl
@[simp] theorem State.pop_draws : (s.pop).draws = s.draws := rfl

/-! `push` -/

@[simp] theorem State.push_v (w : Word) : (s.push w).v = s.v := by
  unfold State.push; split <;> rfl
@[simp] theorem State.push_i (w : Word) : (s.push w).i = s.i := by
  unfold State.push; split <;> rfl
@[simp] theorem State.push_pc (w : Word) : (s.push w).pc = s.pc := by
  unfold State.push; split <;> rfl
@[simp] theorem State.push_dt (w : Word) : (s.push w).dt = s.dt := by
  unfold State.push; split <;> rfl
@[simp] theorem State.push_st (w : Word) : (s.push w).st = s.st := by
  unfold State.push; split <;> rfl
@[simp] theorem State.push_fb (w : Word) : (s.push w).fb = s.fb := by
  unfold State.push; split <;> rfl
@[simp] theorem State.push_key (w : Word) : (s.push w).key = s.key := by
  unfold State.push; split <;> rfl
@[simp] theorem State.push_redraw (w : Word) : (s.push w).redraw = s.redraw := by
  unfold State.push; split <;> rfl
@[simp] theorem State.push_run (w : Word) : (s.push w).run = s.run := by
  unfold State.push; split <;> rfl
@[simp] theorem State.push_errors (w : Word) : (s.push w).errors = s.errors := by
  unfold State.push; split <;> rfl
@[simp] theorem State.push_mem (w : Word) : (s.push w).mem = s.mem := by
  unfold State.push; split <;> rfl
@[simp] theorem State.push_draws (w : Word) : (s.push w).draws = s.draws := by
  unfold State.push; split <;> rfl

/-! Registers read through an update of another field -/

@[simp] theorem State.readV_setI (w : Word) (r : Reg) :
    (s.setI w).readV r = s.readV r := rfl
@[simp] theorem State.readV_setPc (w : Word) (r : Reg) :
    (s.setPc w).readV r = s.readV r := rfl
@[simp] theorem State.readV_setRun (q : RunState) (r : Reg) :
    (s.setRun q).readV r = s.readV r := rfl
@[simp] theorem State.readV_setDT (b : Byte) (r : Reg) :
    (s.setDT b).readV r = s.readV r := rfl
@[simp] theorem State.readV_setST (b : Byte) (r : Reg) :
    (s.setST b).readV r = s.readV r := rfl
@[simp] theorem State.readV_setScreen (f : Framebuffer) (r : Reg) :
    (s.setScreen f).readV r = s.readV r := rfl
@[simp] theorem State.readV_setMem (m : Memory) (r : Reg) :
    (s.setMem m).readV r = s.readV r := rfl
@[simp] theorem State.readV_logError (e : ErrorRecord) (r : Reg) :
    (s.logError e).readV r = s.readV r := rfl
@[simp] theorem State.readV_countDraw (r : Reg) :
    (s.countDraw).readV r = s.readV r := rfl
@[simp] theorem State.readV_pop (r : Reg) :
    (s.pop).readV r = s.readV r := rfl
@[simp] theorem State.readV_push (w : Word) (r : Reg) : (s.push w).readV r = s.readV r := by
  simp [State.readV]

/-! Values read back -/

@[simp] theorem State.pop_sp_val : s.pop.sp.val = s.sp.val - 1 := rfl

theorem State.push_sp_val {w : Word} (h : s.sp.val < 16) : (s.push w).sp.val = s.sp.val + 1 := by
  simp [State.push, h]

theorem State.push_stack_get {w : Word} (h : s.sp.val < 16) (j : Nat) (hj : j < 16) :
    (s.push w).stack[j] = if s.sp.val = j then w else s.stack[j] := by
  simp [State.push, h, Vector.getElem_set]

@[simp] theorem State.push_full {w : Word} (h : s.sp.val = 16) : s.push w = s := by
  simp [State.push, h]

theorem State.readV_setV (r r' : Reg) (b : Byte) :
    (s.setV r b).readV r' = if r = r' then b else s.readV r' := by
  simp [State.readV, Vector.getElem_set, BitVec.toNat_inj]

@[simp] theorem State.readV_setV_same (r : Reg) (b : Byte) : (s.setV r b).readV r = b := by
  simp [State.readV_setV]

theorem State.readV_setV_other {r r' : Reg} (h : r ≠ r') (b : Byte) :
    (s.setV r b).readV r' = s.readV r' := by
  simp [State.readV_setV, h]

/-- Two states with the same registers read the same in every register. -/
theorem State.readV_congr {s t : State} (h : t.v = s.v) (r : Reg) : t.readV r = s.readV r := by
  simp [State.readV, h]

/-- A flag and a result: VF ends as the flag only where X is another register (R170). -/
theorem State.readV_setFlagged (x r : Reg) (flag result : Byte) :
    (s.setFlagged x flag result).readV r =
      if x = r then result else if Reg.flag = r then flag else s.readV r := by
  simp [State.setFlagged, State.readV_setV]

@[simp] theorem State.setFlagged_i (x : Reg) (a b : Byte) : (s.setFlagged x a b).i = s.i := rfl
@[simp] theorem State.setFlagged_pc (x : Reg) (a b : Byte) : (s.setFlagged x a b).pc = s.pc := rfl
@[simp] theorem State.setFlagged_stack (x : Reg) (a b : Byte) :
    (s.setFlagged x a b).stack = s.stack := rfl
@[simp] theorem State.setFlagged_sp (x : Reg) (a b : Byte) : (s.setFlagged x a b).sp = s.sp := rfl
@[simp] theorem State.setFlagged_dt (x : Reg) (a b : Byte) : (s.setFlagged x a b).dt = s.dt := rfl
@[simp] theorem State.setFlagged_st (x : Reg) (a b : Byte) : (s.setFlagged x a b).st = s.st := rfl
@[simp] theorem State.setFlagged_fb (x : Reg) (a b : Byte) : (s.setFlagged x a b).fb = s.fb := rfl
@[simp] theorem State.setFlagged_key (x : Reg) (a b : Byte) :
    (s.setFlagged x a b).key = s.key := rfl
@[simp] theorem State.setFlagged_redraw (x : Reg) (a b : Byte) :
    (s.setFlagged x a b).redraw = s.redraw := rfl
@[simp] theorem State.setFlagged_run (x : Reg) (a b : Byte) :
    (s.setFlagged x a b).run = s.run := rfl
@[simp] theorem State.setFlagged_errors (x : Reg) (a b : Byte) :
    (s.setFlagged x a b).errors = s.errors := rfl
@[simp] theorem State.setFlagged_mem (x : Reg) (a b : Byte) :
    (s.setFlagged x a b).mem = s.mem := rfl
@[simp] theorem State.setFlagged_draws (x : Reg) (a b : Byte) :
    (s.setFlagged x a b).draws = s.draws := rfl

end Sys2Proof.Machine
end

