-- ==== Sys2Proof/Laws/Display.lean ====
section
/-! SUPPORT. The laws of the framebuffer: one pixel, and the drawing of one pixel of a sprite. -/

namespace Sys2Proof.Machine

theorem pixelAt_setPixel (f : Framebuffer) (x x' : Fin 64) (y y' : Fin 32) (b : Bool) :
    pixelAt (setPixel f x y b) x' y' = if x = x' ∧ y = y' then b else pixelAt f x' y' := by
  by_cases hx : x = x'
  · subst hx
    by_cases hy : y = y'
    · subst hy; simp [pixelAt, setPixel]
    · have : (y : Nat) ≠ y' := fun h => hy (Fin.ext h)
      simp [pixelAt, setPixel, hy, this]
  · have : (x : Nat) ≠ x' := fun h => hx (Fin.ext h)
    simp [pixelAt, setPixel, hx, this]

@[simp] theorem pixelAt_blankScreen (x : Fin 64) (y : Fin 32) : pixelAt blankScreen x y = false := by
  simp [pixelAt, blankScreen]

/-- Two framebuffers with the same pixels are equal. -/
theorem Framebuffer.ext {f g : Framebuffer} (h : ∀ x y, pixelAt f x y = pixelAt g x y) : f = g := by
  refine Vector.ext fun x hx => Vector.ext fun y hy => ?_
  simpa [pixelAt] using h ⟨x, hx⟩ ⟨y, hy⟩

theorem pixelAt_drawPixel (bit : Bool) (x x' : Fin 64) (y y' : Fin 32) (c : Canvas) :
    pixelAt (drawPixel bit x y c).fb x' y' =
      if x = x' ∧ y = y' then xor (pixelAt c.fb x' y') bit else pixelAt c.fb x' y' := by
  cases bit
  · simp [drawPixel]
  · simp only [drawPixel, if_true, pixelAt_setPixel]
    by_cases h : x = x' ∧ y = y'
    · obtain ⟨rfl, rfl⟩ := h; simp
    · simp [h]

theorem collision_drawPixel (bit : Bool) (x : Fin 64) (y : Fin 32) (c : Canvas) :
    (drawPixel bit x y c).collision = (c.collision || (bit && pixelAt c.fb x y)) := by
  cases bit <;> simp [drawPixel]

@[simp] theorem drawRows_nil (x0 y : Nat) (c : Canvas) : drawRows x0 y [] c = c := rfl

@[simp] theorem drawRows_cons (x0 y : Nat) (b : Byte) (bs : List Byte) (c : Canvas) :
    drawRows x0 y (b :: bs) c = drawRows x0 (y + 1) bs (drawRow b x0 y c) := rfl

end Sys2Proof.Machine
end

