-- ==== Sys2Proof/Laws/Encoding.lean ====
section
/-! SUPPORT. The bits and the fields of the formats of 30_encoding.md R92, and back: a word is its
fields. -/

namespace Sys2Proof

theorem getLsbD_formatA (f : Nibble) (nnn : Addr12) (k : Nat) :
    (formatA f nnn).getLsbD k = if k < 12 then nnn.getLsbD k else f.getLsbD (k - 12) := by
  have h : (f ++ nnn).getLsbD k = _ := BitVec.getLsbD_append
  exact h.trans (by by_cases hk : k < 12 <;> simp [hk])

theorem getLsbD_formatXNN (f : Nibble) (x : Reg) (nn : Byte) (k : Nat) :
    (formatXNN f x nn).getLsbD k =
      if k < 8 then nn.getLsbD k else if k < 12 then x.getLsbD (k - 8) else f.getLsbD (k - 12) := by
  have h : (f ++ x ++ nn).getLsbD k = _ := BitVec.getLsbD_append
  have h' : (f ++ x).getLsbD (k - 8) = _ := BitVec.getLsbD_append
  refine h.trans ?_
  rw [h']
  by_cases hk : k < 8
  · simp [hk]
  · by_cases hk' : k < 12
    · simp [hk, hk', show k - 8 < 4 by omega]
    · simp [hk, hk', show ¬ k - 8 < 4 by omega, show k - 8 - 4 = k - 12 by omega]

/-- Two nibbles as a byte, the fields Y and N as the field NN (R91). -/
def nibblePair (y n : Nibble) : Byte := y ++ n

theorem getLsbD_nibblePair (y n : Nibble) (k : Nat) :
    (nibblePair y n).getLsbD k = if k < 4 then n.getLsbD k else y.getLsbD (k - 4) := by
  have h : (y ++ n).getLsbD k = _ := BitVec.getLsbD_append
  exact h.trans (by by_cases hk : k < 4 <;> simp [hk])

theorem formatXYN_eq (f : Nibble) (x y : Reg) (n : Nibble) :
    formatXYN f x y n = formatXNN f x (nibblePair y n) := by
  refine BitVec.eq_of_getLsbD_eq fun k hk => ?_
  rw [getLsbD_formatXNN, getLsbD_nibblePair]
  have h : (f ++ x ++ y ++ n).getLsbD k = _ := BitVec.getLsbD_append
  have h₁ : (f ++ x ++ y).getLsbD (k - 4) = _ := BitVec.getLsbD_append
  have h₂ : (f ++ x).getLsbD (k - 4 - 4) = _ := BitVec.getLsbD_append
  refine h.trans ?_
  rw [h₁, h₂, show k - 4 - 4 = k - 8 by omega, show k - 8 - 4 = k - 12 by omega]
  rcases (by omega : k < 4 ∨ (4 ≤ k ∧ k < 8) ∨ (8 ≤ k ∧ k < 12) ∨ 12 ≤ k) with h | h | h | h
  · simp [h, show k < 8 by omega]
  · simp [show ¬ k < 4 by omega, show k - 4 < 4 by omega, show k < 8 by omega]
  · simp only [show ¬ k < 4 by omega, show ¬ k - 4 < 4 by omega, show k - 8 < 4 by omega,
      show ¬ k < 8 by omega, show k < 12 by omega, if_true, if_false]
  · simp only [show ¬ k < 4 by omega, show ¬ k - 4 < 4 by omega, show ¬ k - 8 < 4 by omega,
      show ¬ k < 8 by omega, show ¬ k < 12 by omega, if_false]

/-! The fields of a format. -/

@[simp] theorem family_formatA (f : Nibble) (nnn : Addr12) : Word.family (formatA f nnn) = f := by
  refine BitVec.eq_of_getLsbD_eq fun k hk => ?_
  simp [Word.family, getLsbD_formatA, hk]

@[simp] theorem fieldNNN_formatA (f : Nibble) (nnn : Addr12) :
    Word.fieldNNN (formatA f nnn) = nnn := by
  refine BitVec.eq_of_getLsbD_eq fun k hk => ?_
  simp [Word.fieldNNN, getLsbD_formatA, hk]

@[simp] theorem family_formatXNN (f : Nibble) (x : Reg) (nn : Byte) :
    Word.family (formatXNN f x nn) = f := by
  refine BitVec.eq_of_getLsbD_eq fun k hk => ?_
  simp [Word.family, getLsbD_formatXNN, hk, show ¬ 12 + k < 8 by omega]

@[simp] theorem fieldX_formatXNN (f : Nibble) (x : Reg) (nn : Byte) :
    Word.fieldX (formatXNN f x nn) = x := by
  refine BitVec.eq_of_getLsbD_eq fun k hk => ?_
  simp [Word.fieldX, getLsbD_formatXNN, hk, show 8 + k < 12 by omega]

@[simp] theorem fieldNN_formatXNN (f : Nibble) (x : Reg) (nn : Byte) :
    Word.fieldNN (formatXNN f x nn) = nn := by
  refine BitVec.eq_of_getLsbD_eq fun k hk => ?_
  simp [Word.fieldNN, getLsbD_formatXNN, hk]

@[simp] theorem family_formatXYN (f : Nibble) (x y : Reg) (n : Nibble) :
    Word.family (formatXYN f x y n) = f := by rw [formatXYN_eq, family_formatXNN]

@[simp] theorem fieldX_formatXYN (f : Nibble) (x y : Reg) (n : Nibble) :
    Word.fieldX (formatXYN f x y n) = x := by rw [formatXYN_eq, fieldX_formatXNN]

@[simp] theorem fieldY_formatXYN (f : Nibble) (x y : Reg) (n : Nibble) :
    Word.fieldY (formatXYN f x y n) = y := by
  rw [formatXYN_eq]
  refine BitVec.eq_of_getLsbD_eq fun k hk => ?_
  have : 4 + k < 8 := by omega
  simp [Word.fieldY, getLsbD_formatXNN, -BitVec.getLsbD_eq_getElem, getLsbD_nibblePair, hk, this]

@[simp] theorem fieldN_formatXYN (f : Nibble) (x y : Reg) (n : Nibble) :
    Word.fieldN (formatXYN f x y n) = n := by
  rw [formatXYN_eq]
  refine BitVec.eq_of_getLsbD_eq fun k hk => ?_
  have : k < 8 := by omega
  simp [Word.fieldN, getLsbD_formatXNN, -BitVec.getLsbD_eq_getElem, getLsbD_nibblePair, hk, this]

/-! A word from its fields. -/

theorem formatA_fields (w : Word) : formatA w.family w.fieldNNN = w := by
  refine BitVec.eq_of_getLsbD_eq fun k hk => ?_
  rw [getLsbD_formatA]
  split
  · next h => simp [Word.fieldNNN, h]
  · next h =>
    simp [Word.family, show k - 12 < 4 by omega, show 12 + (k - 12) = k by omega]

theorem formatXNN_fields (w : Word) : formatXNN w.family w.fieldX w.fieldNN = w := by
  refine BitVec.eq_of_getLsbD_eq fun k hk => ?_
  rw [getLsbD_formatXNN]
  split
  · next h => simp [Word.fieldNN, h]
  · split
    · next h =>
      simp [Word.fieldX, show k - 8 < 4 by omega, show 8 + (k - 8) = k by omega]
    · next h =>
      simp [Word.family, show k - 12 < 4 by omega, show 12 + (k - 12) = k by omega]

theorem formatXYN_fields (w : Word) :
    formatXYN w.family w.fieldX w.fieldY w.fieldN = w := by
  rw [formatXYN_eq]
  have : nibblePair w.fieldY w.fieldN = w.fieldNN := by
    refine BitVec.eq_of_getLsbD_eq fun k hk => ?_
    rw [getLsbD_nibblePair]
    by_cases hk' : k < 4
    · simp [Word.fieldN, Word.fieldNN, hk', show k < 8 by omega]
    · simp [Word.fieldY, Word.fieldNN, hk', show k - 4 < 4 by omega, show k < 8 by omega,
        show 4 + (k - 4) = k by omega]
  rw [this, formatXNN_fields]

/-! Words and bytes. -/

@[simp] theorem joinBytes_hiByte_loByte (w : Word) : joinBytes w.hiByte w.loByte = w := by
  refine BitVec.eq_of_getLsbD_eq fun k hk => ?_
  have h : (w.hiByte ++ w.loByte).getLsbD k = _ := BitVec.getLsbD_append
  refine h.trans ?_
  by_cases hk' : k < 8
  · simp [Word.loByte, hk']
  · simp [Word.hiByte, hk', show k - 8 < 8 by omega, show 8 + (k - 8) = k by omega]

/-- The high byte of a word is the more significant one (00_scope.md R16). -/
theorem joinBytes_toNat (hi lo : Byte) : (joinBytes hi lo).toNat = hi.toNat * 256 + lo.toNat := by
  have h : (hi ++ lo).toNat = _ := BitVec.toNat_append hi lo
  refine h.trans ?_
  rw [← Nat.shiftLeft_add_eq_or_of_lt lo.isLt, Nat.shiftLeft_eq]

/-! The table's rows, in bits: a word is in a row exactly when its masked bits are the pattern's. -/

theorem OpcodeRow.covers_iff (r : OpcodeRow) (w : Word) :
    r.covers w = true ↔ ∀ k, k < 16 → (w.getLsbD k && r.mask.getLsbD k) = r.pattern.getLsbD k := by
  rw [OpcodeRow.covers, beq_iff_eq, BitVec.eq_of_getLsbD_eq_iff]
  simp

end Sys2Proof
end

