-- ==== Sys2Proof/Laws/Memory.lean ====
section
/-! SUPPORT. The laws of memory: a read after a write, the bytes of a range, the canonical form kept by
every operation, and that canonical memories that read alike are equal. -/

namespace Sys2Proof.Machine

@[simp] theorem Memory.read_nil (a : Nat) : Memory.read [] a = Memory.initial a := rfl

theorem Memory.read_erase (m : Memory) (a a' : Nat) :
    (m.erase a).read a' = if a' = a then Memory.initial a else m.read a' := by
  induction m with
  | nil => by_cases h : a' = a <;> simp [Memory.erase, h]
  | cons c m ih =>
    obtain ⟨k, b⟩ := c
    by_cases hk : k = a
    · subst hk
      have : Memory.erase ((k, b) :: m) k = Memory.erase m k := by simp [Memory.erase]
      rw [this, ih]
      by_cases h : a' = k <;> simp [Memory.read, h]
    · have : Memory.erase ((k, b) :: m) a = (k, b) :: Memory.erase m a := by
        simp [Memory.erase, hk]
      rw [this]
      by_cases h : a' = k
      · subst h; simp [Memory.read, hk]
      · simp [Memory.read, h, ih]

theorem Memory.read_insert (m : Memory) (a : Nat) (b : Byte) (h : ∀ c ∈ m, c.1 ≠ a) (a' : Nat) :
    (m.insert a b).read a' = if a' = a then b else m.read a' := by
  induction m with
  | nil => simp [Memory.insert, Memory.read]
  | cons c m ih =>
    obtain ⟨k, d⟩ := c
    have hk : k ≠ a := h (k, d) (by simp)
    have ih := ih fun c hc => h c (by simp [hc])
    unfold Memory.insert
    split
    · simp [Memory.read]
    · by_cases h' : a' = k
      · subst h'; simp [Memory.read, hk]
      · simp [Memory.read, h', ih]

/-- A read after a write: the byte at the written address, every other byte as it was. -/
theorem Memory.read_write (m : Memory) (a : Nat) (b : Byte) (a' : Nat) :
    (m.write a b).read a' = if a' = a then b else m.read a' := by
  unfold Memory.write
  split
  · next h => rw [Memory.read_erase, h]
  · rw [Memory.read_insert _ _ _ (by simp [Memory.erase]), Memory.read_erase]
    by_cases h : a' = a <;> simp [h]

@[simp] theorem Memory.read_write_same (m : Memory) (a : Nat) (b : Byte) :
    (m.write a b).read a = b := by simp [Memory.read_write]

theorem Memory.read_write_other (m : Memory) {a a' : Nat} (b : Byte) (h : a' ≠ a) :
    (m.write a b).read a' = m.read a' := by simp [Memory.read_write, h]

/-- A read after a write of several bytes. -/
theorem Memory.read_writeBytes (m : Memory) (a : Nat) (bs : List Byte) (a' : Nat) :
    (m.writeBytes a bs).read a' =
      if a ≤ a' ∧ a' < a + bs.length then bs.getD (a' - a) 0 else m.read a' := by
  induction bs generalizing m a with
  | nil => simp [Memory.writeBytes]
  | cons b bs ih =>
    rw [Memory.writeBytes, ih, Memory.read_write]
    rcases Nat.lt_trichotomy a' a with h | h | h
    · simp [show ¬ (a + 1 ≤ a') by omega, show ¬ (a ≤ a') by omega, Nat.ne_of_lt h]
    · subst h; simp
    · have e : a' - a = (a' - (a + 1)) + 1 := by omega
      by_cases hl : a' < a + 1 + bs.length
      · simp [show a + 1 ≤ a' by omega, hl, show a ≤ a' by omega,
          show a' < a + (bs.length + 1) by omega, e]
      · simp [hl, show ¬ a' < a + (bs.length + 1) by omega, show a' ≠ a by omega]

@[simp] theorem Memory.length_readBytes (m : Memory) (a n : Nat) : (m.readBytes a n).length = n := by
  induction n generalizing a with
  | zero => rfl
  | succ n ih => simp [Memory.readBytes, ih]

theorem Memory.getElem_readBytes (m : Memory) (a n j : Nat) (h : j < (m.readBytes a n).length) :
    (m.readBytes a n)[j] = m.read (a + j) := by
  induction n generalizing a j with
  | zero => simp [Memory.readBytes] at h
  | succ n ih =>
    cases j with
    | zero => simp [Memory.readBytes]
    | succ j => simp [Memory.readBytes, ih, Nat.add_assoc, Nat.add_comm 1 j]

/-- Memories that read alike give the same bytes. -/
theorem Memory.readBytes_congr {m m' : Memory} {a n : Nat}
    (h : ∀ j, j < n → m.read (a + j) = m'.read (a + j)) : m.readBytes a n = m'.readBytes a n := by
  refine List.ext_getElem (by simp) fun j h₁ h₂ => ?_
  rw [Memory.getElem_readBytes, Memory.getElem_readBytes]
  exact h j (by simpa using h₁)

/-! The canonical form. -/

theorem Memory.wf_nil : Memory.wf [] := by simp [Memory.wf]

theorem Memory.wf_erase {m : Memory} (h : m.wf) (a : Nat) : (m.erase a).wf :=
  ⟨h.1.sublist List.filter_sublist, fun c hc => h.2 c (List.mem_of_mem_filter hc)⟩

theorem Memory.mem_insert {m : Memory} {a : Nat} {b : Byte} {c : Host.Cell} :
    c ∈ m.insert a b ↔ c = (a, b) ∨ c ∈ m := by
  induction m with
  | nil => simp [Memory.insert]
  | cons d m ih =>
    obtain ⟨k, e⟩ := d
    unfold Memory.insert
    split
    · simp
    · simp [ih]; tauto

theorem Memory.pairwise_insert {m : Memory} {a : Nat} {b : Byte}
    (h : m.Pairwise (fun c d => c.1 < d.1)) (ha : ∀ c ∈ m, c.1 ≠ a) :
    (m.insert a b).Pairwise (fun c d => c.1 < d.1) := by
  induction m with
  | nil => simp [Memory.insert]
  | cons d m ih =>
    obtain ⟨k, e⟩ := d
    obtain ⟨hk, hm⟩ := List.pairwise_cons.1 h
    unfold Memory.insert
    split
    · next hlt =>
      refine List.pairwise_cons.2 ⟨?_, h⟩
      rintro c hc
      rcases List.mem_cons.1 hc with rfl | hc
      · exact hlt
      · exact Nat.lt_trans hlt (hk c hc)
    · next hlt =>
      refine List.pairwise_cons.2 ⟨?_, ih hm fun c hc => ha c (by simp [hc])⟩
      rintro c hc
      rcases Memory.mem_insert.1 hc with rfl | hc
      · have := ha (k, e) (by simp)
        simp only at this ⊢
        omega
      · exact hk c hc

/-- A write inside the address space keeps the canonical form. -/
theorem Memory.wf_write {m : Memory} (h : m.wf) {a : Nat} (ha : a ≤ Config.lastAddr) (b : Byte) :
    (m.write a b).wf := by
  have he := Memory.wf_erase h a
  unfold Memory.write
  split
  · exact he
  · next hb =>
    refine ⟨Memory.pairwise_insert he.1 (by simp [Memory.erase]), fun c hc => ?_⟩
    rcases Memory.mem_insert.1 hc with rfl | hc
    · exact ⟨ha, hb⟩
    · exact he.2 c hc

/-- Writes inside the address space keep the canonical form. -/
theorem Memory.wf_writeBytes {m : Memory} (h : m.wf) {a : Nat} {bs : List Byte}
    (ha : a + bs.length ≤ Config.lastAddr + 1) : (m.writeBytes a bs).wf := by
  induction bs generalizing m a with
  | nil => exact h
  | cons b bs ih =>
    simp only [List.length_cons] at ha
    exact ih (Memory.wf_write h (by omega) b) (by omega)

end Sys2Proof.Machine
end

