-- ==== Sys2Proof/Laws/Operands.lean ====
section
/-! SUPPORT. What the operand forms and flags give, in exact integers. -/

namespace Sys2Proof.Machine

@[simp] theorem zext16_toNat (nnn : Addr12) : (zext16 nnn).toNat = nnn.toNat := by
  have := nnn.isLt
  simp only [zext16, BitVec.toNat_setWidth]
  omega

@[simp] theorem addTrunc_toNat (a b : Byte) : (addTrunc a b).toNat = (a.toNat + b.toNat) % 256 := by
  simp [addTrunc]

theorem subTrunc_toNat (a b : Byte) :
    (subTrunc a b).toNat =
      if b.toNat ≤ a.toNat then a.toNat - b.toNat else a.toNat + 256 - b.toNat := by
  have ha := a.isLt
  have hb := b.isLt
  simp only [subTrunc, BitVec.toNat_ofInt]
  split <;> omega

@[simp] theorem halve_toNat (a : Byte) : (halve a).toNat = a.toNat / 2 := by
  have := a.isLt
  simp only [halve, BitVec.toNat_ofNat]
  omega

@[simp] theorem double_toNat (a : Byte) : (double a).toNat = a.toNat * 2 % 256 := by simp [double]

@[simp] theorem offsetTarget_toNat (nnn : Addr12) (a : Byte) :
    (offsetTarget nnn a).toNat = nnn.toNat + a.toNat := by
  have := nnn.isLt
  have := a.isLt
  simp only [offsetTarget, BitVec.toNat_ofNat]
  omega

@[simp] theorem indexPlus_toNat (i : Word) (b : Byte) :
    (indexPlus i b).toNat = (i.toNat + b.toNat) % 65536 := by simp [indexPlus]

@[simp] theorem glyphAddr_toNat (d : Byte) : (glyphAddr d).toNat = 5 * d.toNat := by
  have := d.isLt
  simp only [glyphAddr, Config.fontBase, BitVec.toNat_ofNat]
  omega

@[simp] theorem length_regBytes (v : Vector Byte 16) (x : Reg) :
    (regBytes v x).length = x.toNat + 1 := by
  have := x.isLt
  simp only [regBytes, regCount, List.length_take, Vector.length_toList]
  omega

theorem getElem_regBytes (v : Vector Byte 16) (x : Reg) (j : Nat) (h : j < (regBytes v x).length) :
    (regBytes v x)[j] = v[j]'(by have := x.isLt; simp at h; omega) := by
  simp [regBytes]

/-- What loading a list of bytes from register `k` on gives in each register. -/
theorem getElem_loadRegs (bs : List Byte) (v : Vector Byte 16) (k j : Nat) (hj : j < 16) :
    (loadRegs v k bs)[j] = if k ≤ j ∧ j < k + bs.length then bs.getD (j - k) 0 else v[j] := by
  induction bs generalizing v k with
  | nil =>
    simp [loadRegs]
  | cons b bs ih =>
    rw [loadRegs, ih, Vector.getElem_setIfInBounds]
    rcases Nat.lt_trichotomy j k with h | h | h
    · simp [show ¬ (k + 1 ≤ j) by omega, show ¬ (k ≤ j) by omega, Nat.ne_of_gt h]
    · subst h; simp
    · have e : j - k = (j - (k + 1)) + 1 := by omega
      by_cases hl : j < k + 1 + bs.length
      · simp [show k + 1 ≤ j by omega, hl, show k ≤ j by omega,
          show j < k + (bs.length + 1) by omega, e]
      · simp [hl, show ¬ j < k + (bs.length + 1) by omega, show k ≠ j by omega]

/-- The lowest pressed key: it is pressed, and every lower key is released (R267). -/
theorem lowestKey_eq_some {keys : Vector Bool 16} {k : Nat} :
    lowestKey keys = some k ↔
      ∃ h : k < 16, keys[k] = true ∧ ∀ j (hj : j < k), keys[j]'(by omega) = false := by
  simp [lowestKey, List.findIdx?_eq_some_iff_getElem]

/-- No key is pressed. -/
theorem lowestKey_eq_none {keys : Vector Bool 16} : lowestKey keys = none ↔ ∀ b ∈ keys, b = false := by
  simp [lowestKey, List.findIdx?_eq_none_iff]

theorem keyPressed_eq {keys : Vector Bool 16} {k : Byte} (h : k.toNat < 16) :
    keyPressed keys k = keys[k.toNat] := by
  simp [keyPressed, List.getD_eq_getElem?_getD, h]

end Sys2Proof.Machine
end

