-- ==== Sys2Proof/Laws/Ops.lean ====
section
/-! SUPPORT. What each shared operation can do, said once: the access checks, taking an error,
completing an instruction, the fetch, the step. -/

namespace Sys2Proof.Machine

/-! The access checks. -/

theorem firstFault_eq_none {check : Nat → Option AccessFault} {a n : Nat} :
    firstFault check a n = none ↔ ∀ k, k < n → check (a + k) = none := by
  simp only [firstFault, accessAddrs, List.findSome?_eq_none_iff, List.mem_range'_1]
  constructor
  · intro h k hk; exact h (a + k) ⟨by omega, by omega⟩
  · rintro h x ⟨h₁, h₂⟩
    have := h (x - a) (by omega)
    rwa [Nat.add_sub_cancel' h₁] at this

/-- The fault reported is the one of the first failing address (R64). -/
theorem firstFault_eq_some {check : Nat → Option AccessFault} {a n : Nat} {f : AccessFault} :
    firstFault check a n = some f ↔
      ∃ k, k < n ∧ check (a + k) = some f ∧ ∀ j, j < k → check (a + j) = none := by
  unfold firstFault accessAddrs
  induction n generalizing a with
  | zero => simp
  | succ n ih =>
    rw [List.range'_succ, List.findSome?_cons]
    cases h : check a with
    | some g =>
      constructor
      · intro e; exact ⟨0, by omega, by simpa [h] using e, by omega⟩
      · rintro ⟨k, -, hk, hj⟩
        cases k with
        | zero => simpa [h] using hk
        | succ k => simpa [h] using hj 0 (by omega)
    | none =>
      simp only [ih]
      constructor
      · rintro ⟨k, hk, hf, hj⟩
        refine ⟨k + 1, by omega, by simpa [Nat.add_assoc, Nat.add_comm 1 k] using hf, ?_⟩
        intro j hj'
        cases j with
        | zero => simpa using h
        | succ j => simpa [Nat.add_assoc, Nat.add_comm 1 j] using hj j (by omega)
      · rintro ⟨k, hk, hf, hj⟩
        cases k with
        | zero => simp [h] at hf
        | succ k =>
          refine ⟨k, by omega, by simpa [Nat.add_assoc, Nat.add_comm 1 k] using hf, ?_⟩
          intro j hj'
          simpa [Nat.add_assoc, Nat.add_comm 1 j] using hj (j + 1) (by omega)

theorem checkRead_eq_none {a : Nat} : checkRead a = none ↔ a ≤ 0xFFF := by
  simp [checkRead]

theorem checkWrite_eq_none {a : Nat} : checkWrite a = none ↔ 0x050 ≤ a ∧ a ≤ 0xFFF := by
  unfold checkWrite
  split
  · next h => simp only [Config.lastAddr] at h; simp; omega
  · next h =>
    split
    · next h' => simp only [Config.fontLast] at h'; simp; omega
    · next h' => simp only [Config.fontLast, Config.lastAddr] at h h'; simp; omega

/-- A read of `n` bytes is in range exactly when it is empty or ends by 0xFFF. -/
theorem firstFault_read_eq_none {a n : Nat} :
    firstFault checkRead a n = none ↔ n = 0 ∨ a + n ≤ 0x1000 := by
  rw [firstFault_eq_none]
  simp only [checkRead_eq_none]
  constructor
  · intro h
    rcases Nat.eq_zero_or_pos n with h₀ | h₀
    · exact .inl h₀
    · have := h (n - 1) (by omega); omega
  · rintro (h | h) k hk <;> omega

/-- A write of `n` bytes is allowed exactly when it is empty, or starts above the font and ends by
0xFFF. -/
theorem firstFault_write_eq_none {a n : Nat} :
    firstFault checkWrite a n = none ↔ n = 0 ∨ (0x050 ≤ a ∧ a + n ≤ 0x1000) := by
  rw [firstFault_eq_none]
  simp only [checkWrite_eq_none]
  constructor
  · intro h
    rcases Nat.eq_zero_or_pos n with h₀ | h₀
    · exact .inl h₀
    · have h₁ := h 0 h₀
      have h₂ := h (n - 1) (by omega)
      omega
  · rintro (h | h) k hk <;> omega

/-! Taking an error. -/

/-- What `raise` writes: a record, RUN, and PC only for a recoverable error (R302, R303). -/
theorem raise_eq (k : ErrorKind) (w : Option Word) (info : Option Nat) (s : State) :
    raise k w info s =
      { s with
        errors := s.errors ++ [⟨k, s.pc, w, info⟩]
        pc := if k.halting then s.pc else s.pc + 2
        run := if k.halting then .halted else .running } := by
  cases k <;> rfl

@[simp] theorem raiseBy_eq (i : Instr) (k : ErrorKind) (info : Option Nat) (s : State) :
    raiseBy i k info s = .next (raise k (some (encode i)) info s) := rfl

/-! Completing. -/

@[simp] theorem complete_eq (w : Word) (s : State) :
    complete w s = .next ((s.setPc w).setRun .running) := rfl

@[simp] theorem advance_eq (s : State) :
    advance s = .next ((s.setPc (s.pc + 2)).setRun .running) := rfl

@[simp] theorem skipIf_eq (c : Bool) (s : State) :
    skipIf c s = .next ((s.setPc (if c then s.pc + 4 else s.pc + 2)).setRun .running) := rfl

/-- An access whose addresses are all allowed ends in `done`. -/
theorem accessing_ok {i : Instr} {check : Nat → Option AccessFault} {n : Nat} {s : State}
    (h : firstFault check s.i.toNat n = none) (d : State) :
    accessing i check n s d = advance d := by simp [accessing, h]

/-- An access with a failing address raises the first one's error, and nothing else happens. -/
theorem accessing_fault {i : Instr} {check : Nat → Option AccessFault} {n : Nat} {s : State}
    {f : AccessFault} (h : firstFault check s.i.toNat n = some f) (d : State) :
    accessing i check n s d = raiseBy i f.kind (some f.addr) s := by simp [accessing, h]

/-! The cycle. -/

/-- The fetch succeeds exactly where both bytes are in memory. -/
theorem fetch_ok {s : State} (h : s.pc.toNat ≤ 0xFFE) :
    fetch s = .ok (joinBytes (s.mem.read s.pc.toNat) (s.mem.read (s.pc.toNat + 1))) := by
  have : firstFault checkRead s.pc.toNat 2 = none := firstFault_read_eq_none.2 (by omega)
  simp [fetch, this]

/-- Everything a step can do (R121). -/
theorem step_cases (s : State) :
    (s.run = .halted ∧ step s = .next s) ∨
    (s.run ≠ .halted ∧ ∃ f, fetch s = .error f ∧
      step s = .next (raise f.kind none (some f.addr) s)) ∨
    (s.run ≠ .halted ∧ ∃ w e, fetch s = .ok w ∧ decodeWord w = .error e ∧
      step s = .next (raise .decodeError (some w) none s)) ∨
    (s.run ≠ .halted ∧ ∃ w i, fetch s = .ok w ∧ decodeWord w = .ok i ∧ step s = exec i s) := by
  by_cases hr : s.run = .halted
  · exact .inl ⟨hr, by simp [step, hr, stepHalted]⟩
  · cases hf : fetch s with
    | error f => exact .inr (.inl ⟨hr, f, rfl, by simp [step, hr, hf, stepFetchFault]⟩)
    | ok w =>
      cases hd : decodeWord w with
      | error e =>
        exact .inr (.inr (.inl ⟨hr, w, e, rfl, hd, by simp [step, hr, hf, hd, stepUndefined]⟩))
      | ok i => exact .inr (.inr (.inr ⟨hr, w, i, rfl, hd, by simp [step, hr, hf, hd]⟩))

end Sys2Proof.Machine
end

