-- ==== Sys2Proof/Laws/PerInstr.lean ====
section
/-! SUPPORT. One lemma per instruction, about the instruction as syntax: its encoding lies in the row of
spec/opcode_table.json that bears its mnemonic. -/

namespace Sys2Proof.Laws.InTable

/-- The row of the instruction's mnemonic covers its encoding. -/
def Statement (i : Instr) : Prop :=
  ∃ r ∈ opcodeTable, r.mnemonic = i.mnemonic ∧ r.covers (encode i) = true

/-- Format A under a mask that keeps the family. -/
theorem covers_formatA (m : String) (f : Nibble) (nnn : Addr12) :
    OpcodeRow.covers ⟨m, formatA f 0, 0xF000⟩ (formatA f nnn) = true := by
  have hm : ∀ k, k < 16 → (0xF000#16).getLsbD k = decide (12 ≤ k) := by decide
  refine (OpcodeRow.covers_iff _ _).2 fun k hk => ?_
  show ((formatA f nnn).getLsbD k && (0xF000#16).getLsbD k) = (formatA f 0).getLsbD k
  rw [getLsbD_formatA, getLsbD_formatA, hm k hk]
  by_cases h : k < 12
  · simp [h, show ¬ 12 ≤ k by omega]
  · simp [h, show 12 ≤ k by omega]

/-- Format XNN under a mask that keeps the family. -/
theorem covers_formatXNN (m : String) (f : Nibble) (x : Reg) (nn : Byte) :
    OpcodeRow.covers ⟨m, formatXNN f 0 0, 0xF000⟩ (formatXNN f x nn) = true := by
  have hm : ∀ k, k < 16 → (0xF000#16).getLsbD k = decide (12 ≤ k) := by decide
  refine (OpcodeRow.covers_iff _ _).2 fun k hk => ?_
  show ((formatXNN f x nn).getLsbD k && (0xF000#16).getLsbD k) = (formatXNN f 0 0).getLsbD k
  rw [getLsbD_formatXNN, getLsbD_formatXNN, hm k hk]
  by_cases h : k < 12
  · by_cases h' : k < 8 <;> simp [h, h', show ¬ 12 ≤ k by omega]
  · simp [h, show ¬ k < 8 by omega, show 12 ≤ k by omega]

/-- Format XF, a mask that keeps the family and the function code NN. -/
theorem covers_formatXF (m : String) (f : Nibble) (x : Reg) (nn : Byte) :
    OpcodeRow.covers ⟨m, formatXNN f 0 nn, 0xF0FF⟩ (formatXNN f x nn) = true := by
  have hm : ∀ k, k < 16 → (0xF0FF#16).getLsbD k = (decide (k < 8) || decide (12 ≤ k)) := by decide
  refine (OpcodeRow.covers_iff _ _).2 fun k hk => ?_
  show ((formatXNN f x nn).getLsbD k && (0xF0FF#16).getLsbD k) = (formatXNN f 0 nn).getLsbD k
  rw [getLsbD_formatXNN, getLsbD_formatXNN, hm k hk]
  by_cases h : k < 8
  · simp [h]
  · by_cases h' : k < 12
    · simp [h, h', show ¬ 12 ≤ k by omega]
    · simp [h, h', show 12 ≤ k by omega]

/-- Format XYF, a mask that keeps the family and the function code N. -/
theorem covers_formatXYF (m : String) (f : Nibble) (x y : Reg) (n : Nibble) :
    OpcodeRow.covers ⟨m, formatXYN f 0 0 n, 0xF00F⟩ (formatXYN f x y n) = true := by
  have hm : ∀ k, k < 16 → (0xF00F#16).getLsbD k = (decide (k < 4) || decide (12 ≤ k)) := by decide
  refine (OpcodeRow.covers_iff _ _).2 fun k hk => ?_
  show ((formatXYN f x y n).getLsbD k && (0xF00F#16).getLsbD k) = (formatXYN f 0 0 n).getLsbD k
  rw [formatXYN_eq, formatXYN_eq, getLsbD_formatXNN, getLsbD_formatXNN, getLsbD_nibblePair,
    getLsbD_nibblePair, hm k hk]
  rcases (by omega : k < 4 ∨ (4 ≤ k ∧ k < 8) ∨ (8 ≤ k ∧ k < 12) ∨ 12 ≤ k) with h | h | h | h
  · simp [h, show k < 8 by omega]
  · simp [show ¬ k < 4 by omega, show k < 8 by omega, show ¬ 12 ≤ k by omega]
  · simp [show ¬ k < 4 by omega, show ¬ k < 8 by omega, show k < 12 by omega, show ¬ 12 ≤ k by omega]
  · simp [show ¬ k < 4 by omega, show ¬ k < 8 by omega, show ¬ k < 12 by omega, show 12 ≤ k by omega]


theorem cls : Statement .cls :=
  ⟨⟨"CLS", 0x00E0, 0xFFFF⟩, by decide, rfl,
   by decide⟩

theorem ret : Statement .ret :=
  ⟨⟨"RET", 0x00EE, 0xFFFF⟩, by decide, rfl,
   by decide⟩

theorem jp (nnn : Addr12) : Statement (.jp nnn) :=
  ⟨⟨"JP_addr", 0x1000, 0xF000⟩, by decide, rfl,
   covers_formatA _ 1 nnn⟩

theorem call (nnn : Addr12) : Statement (.call nnn) :=
  ⟨⟨"CALL_addr", 0x2000, 0xF000⟩, by decide, rfl,
   covers_formatA _ 2 nnn⟩

theorem seImm (x : Reg) (nn : Byte) : Statement (.seImm x nn) :=
  ⟨⟨"SE_Vx__byte", 0x3000, 0xF000⟩, by decide, rfl,
   covers_formatXNN _ 3 x nn⟩

theorem sneImm (x : Reg) (nn : Byte) : Statement (.sneImm x nn) :=
  ⟨⟨"SNE_Vx__byte", 0x4000, 0xF000⟩, by decide, rfl,
   covers_formatXNN _ 4 x nn⟩

theorem seReg (x y : Reg) : Statement (.seReg x y) :=
  ⟨⟨"SE_Vx__Vy", 0x5000, 0xF00F⟩, by decide, rfl,
   covers_formatXYF _ 5 x y 0⟩

theorem ldImm (x : Reg) (nn : Byte) : Statement (.ldImm x nn) :=
  ⟨⟨"LD_Vx__byte", 0x6000, 0xF000⟩, by decide, rfl,
   covers_formatXNN _ 6 x nn⟩

theorem addImm (x : Reg) (nn : Byte) : Statement (.addImm x nn) :=
  ⟨⟨"ADD_Vx__byte", 0x7000, 0xF000⟩, by decide, rfl,
   covers_formatXNN _ 7 x nn⟩

theorem ldReg (x y : Reg) : Statement (.ldReg x y) :=
  ⟨⟨"LD_Vx__Vy", 0x8000, 0xF00F⟩, by decide, rfl,
   covers_formatXYF _ 8 x y 0⟩

theorem orReg (x y : Reg) : Statement (.orReg x y) :=
  ⟨⟨"OR_Vx__Vy", 0x8001, 0xF00F⟩, by decide, rfl,
   covers_formatXYF _ 8 x y 1⟩

theorem andReg (x y : Reg) : Statement (.andReg x y) :=
  ⟨⟨"AND_Vx__Vy", 0x8002, 0xF00F⟩, by decide, rfl,
   covers_formatXYF _ 8 x y 2⟩

theorem xorReg (x y : Reg) : Statement (.xorReg x y) :=
  ⟨⟨"XOR_Vx__Vy", 0x8003, 0xF00F⟩, by decide, rfl,
   covers_formatXYF _ 8 x y 3⟩

theorem addReg (x y : Reg) : Statement (.addReg x y) :=
  ⟨⟨"ADD_Vx__Vy", 0x8004, 0xF00F⟩, by decide, rfl,
   covers_formatXYF _ 8 x y 4⟩

theorem subReg (x y : Reg) : Statement (.subReg x y) :=
  ⟨⟨"SUB_Vx__Vy", 0x8005, 0xF00F⟩, by decide, rfl,
   covers_formatXYF _ 8 x y 5⟩

theorem shr (x y : Reg) : Statement (.shr x y) :=
  ⟨⟨"SHR_Vx__Vy", 0x8006, 0xF00F⟩, by decide, rfl,
   covers_formatXYF _ 8 x y 6⟩

theorem subn (x y : Reg) : Statement (.subn x y) :=
  ⟨⟨"SUBN_Vx__Vy", 0x8007, 0xF00F⟩, by decide, rfl,
   covers_formatXYF _ 8 x y 7⟩

theorem shl (x y : Reg) : Statement (.shl x y) :=
  ⟨⟨"SHL_Vx__Vy", 0x800E, 0xF00F⟩, by decide, rfl,
   covers_formatXYF _ 8 x y 14⟩

theorem sneReg (x y : Reg) : Statement (.sneReg x y) :=
  ⟨⟨"SNE_Vx__Vy", 0x9000, 0xF00F⟩, by decide, rfl,
   covers_formatXYF _ 9 x y 0⟩

theorem ldI (nnn : Addr12) : Statement (.ldI nnn) :=
  ⟨⟨"LD_I__addr", 0xA000, 0xF000⟩, by decide, rfl,
   covers_formatA _ 10 nnn⟩

theorem jpV0 (nnn : Addr12) : Statement (.jpV0 nnn) :=
  ⟨⟨"JP_V0__addr", 0xB000, 0xF000⟩, by decide, rfl,
   covers_formatA _ 11 nnn⟩

theorem rnd (x : Reg) (nn : Byte) : Statement (.rnd x nn) :=
  ⟨⟨"RND_Vx__byte", 0xC000, 0xF000⟩, by decide, rfl,
   covers_formatXNN _ 12 x nn⟩

theorem drw (x y : Reg) (n : Nibble) : Statement (.drw x y n) :=
  ⟨⟨"DRW_Vx__Vy__nibble", 0xD000, 0xF000⟩, by decide, rfl, by
    rw [encode, formatXYN_eq]; exact covers_formatXNN _ 13 x (nibblePair y n)⟩

theorem skp (x : Reg) : Statement (.skp x) :=
  ⟨⟨"SKP_Vx", 0xE09E, 0xF0FF⟩, by decide, rfl,
   covers_formatXF _ 14 x 158⟩

theorem sknp (x : Reg) : Statement (.sknp x) :=
  ⟨⟨"SKNP_Vx", 0xE0A1, 0xF0FF⟩, by decide, rfl,
   covers_formatXF _ 14 x 161⟩

theorem ldFromDT (x : Reg) : Statement (.ldFromDT x) :=
  ⟨⟨"LD_Vx__DT", 0xF007, 0xF0FF⟩, by decide, rfl,
   covers_formatXF _ 15 x 7⟩

theorem ldKey (x : Reg) : Statement (.ldKey x) :=
  ⟨⟨"LD_Vx__K", 0xF00A, 0xF0FF⟩, by decide, rfl,
   covers_formatXF _ 15 x 10⟩

theorem ldDT (x : Reg) : Statement (.ldDT x) :=
  ⟨⟨"LD_DT__Vx", 0xF015, 0xF0FF⟩, by decide, rfl,
   covers_formatXF _ 15 x 21⟩

theorem ldST (x : Reg) : Statement (.ldST x) :=
  ⟨⟨"LD_ST__Vx", 0xF018, 0xF0FF⟩, by decide, rfl,
   covers_formatXF _ 15 x 24⟩

theorem addI (x : Reg) : Statement (.addI x) :=
  ⟨⟨"ADD_I__Vx", 0xF01E, 0xF0FF⟩, by decide, rfl,
   covers_formatXF _ 15 x 30⟩

theorem ldF (x : Reg) : Statement (.ldF x) :=
  ⟨⟨"LD_F__Vx", 0xF029, 0xF0FF⟩, by decide, rfl,
   covers_formatXF _ 15 x 41⟩

theorem ldB (x : Reg) : Statement (.ldB x) :=
  ⟨⟨"LD_B__Vx", 0xF033, 0xF0FF⟩, by decide, rfl,
   covers_formatXF _ 15 x 51⟩

theorem store (x : Reg) : Statement (.store x) :=
  ⟨⟨"LD__I___Vx", 0xF055, 0xF0FF⟩, by decide, rfl,
   covers_formatXF _ 15 x 85⟩

theorem load (x : Reg) : Statement (.load x) :=
  ⟨⟨"LD_Vx___I", 0xF065, 0xF0FF⟩, by decide, rfl,
   covers_formatXF _ 15 x 101⟩


end Sys2Proof.Laws.InTable
end

