-- ==== Sys2Proof/Tests/Slice0.lean ====
section
/-! SUPPORT. Tests: the well-formedness smoke test, a word of every constructor, single steps with results
from 95_test_vectors.md (V<n>.<k>), and a witness for every statement that has hypotheses. -/

namespace Sys2Proof.Tests

open Sys2Proof.Machine

/-! Helpers: small states over the reset state, one step, and a look at what it answers. -/

/-- The reset state with some registers set. -/
def regs (l : List (Reg × Byte)) : State := l.foldl (fun s p => s.setV p.1 p.2) State.reset

/-- The machine answers a next state of which `p` holds. -/
def after (r : Step) (p : State → Bool) : Bool :=
  match r with
  | .next t => p t
  | _ => false

/-- One step from `s` with the word `w` placed at PC. -/
def ran (w : Nat) (s : State) (p : State → Bool) : Bool := after (step (s.withFetchWord 16 w)) p

/-- Bytes stored in the memory of a state. -/
def withBytes (a : Nat) (bs : List Byte) (s : State) : State := s.setMem (s.mem.writeBytes a bs)

/-! Well-formedness: an ill-formed word for each row of R97, and an image one byte too long (R354). -/

theorem test_illformed_family0 : wellFormedWord 0x01E0 = false ∧ wellFormedWord 0x00E1 = false ∧
    wellFormedWord 0x0000 = false := by decide

theorem test_illformed_family5 : wellFormedWord 0x5121 = false := by decide

theorem test_illformed_family8 :
    ([0x8128, 0x8129, 0x812A, 0x812B, 0x812C, 0x812D, 0x812F].any wellFormedWord) = false := by decide

theorem test_illformed_family9 : wellFormedWord 0x9121 = false := by decide

theorem test_illformed_familyE : wellFormedWord 0xE19F = false ∧ wellFormedWord 0xE1A2 = false := by
  decide

theorem test_illformed_familyF : wellFormedWord 0xF100 = false ∧ wellFormedWord 0xF130 = false ∧
    wellFormedWord 0xF175 = false := by decide

theorem test_wellformed_words :
    ([0x00E0, 0x8126, 0x812E, 0xE19E, 0xF165].all wellFormedWord) = true := by decide

theorem test_illformed_image : wellFormedImage (List.replicate 3585 0) = false :=
  decide_eq_false (by rw [List.length_replicate]; decide)

theorem test_wellformed_image : wellFormedImage (List.replicate 3584 0) = true :=
  decide_eq_true (by rw [List.length_replicate]; decide)

/-! Decoding: for every constructor a word written bit by bit from the formats of R92 and the map of
R95; operands chosen so that swapped fields would show. -/

theorem test_decode_cls : decodeWord 0b0000_0000_1110_0000 = .ok .cls := by rfl
theorem test_decode_ret : decodeWord 0b0000_0000_1110_1110 = .ok .ret := by rfl
theorem test_decode_jp : decodeWord 0b0001_0010_0011_0100 = .ok (.jp 0x234) := by rfl
theorem test_decode_call : decodeWord 0b0010_0101_0110_0111 = .ok (.call 0x567) := by rfl
theorem test_decode_seImm : decodeWord 0b0011_0011_0010_1010 = .ok (.seImm 3 0x2A) := by rfl
theorem test_decode_sneImm : decodeWord 0b0100_1011_1100_1101 = .ok (.sneImm 0xB 0xCD) := by rfl
theorem test_decode_seReg : decodeWord 0b0101_0001_0010_0000 = .ok (.seReg 1 2) := by rfl
theorem test_decode_ldImm : decodeWord 0b0110_1010_0100_0010 = .ok (.ldImm 0xA 0x42) := by rfl
theorem test_decode_addImm : decodeWord 0b0111_1111_0000_0101 = .ok (.addImm 0xF 5) := by rfl
theorem test_decode_ldReg : decodeWord 0b1000_1111_0010_0000 = .ok (.ldReg 0xF 2) := by rfl
theorem test_decode_orReg : decodeWord 0b1000_0001_0010_0001 = .ok (.orReg 1 2) := by rfl
theorem test_decode_andReg : decodeWord 0b1000_0001_0010_0010 = .ok (.andReg 1 2) := by rfl
theorem test_decode_xorReg : decodeWord 0b1000_0001_0010_0011 = .ok (.xorReg 1 2) := by rfl
theorem test_decode_addReg : decodeWord 0b1000_0001_0010_0100 = .ok (.addReg 1 2) := by rfl
theorem test_decode_subReg : decodeWord 0b1000_0001_0010_0101 = .ok (.subReg 1 2) := by rfl
theorem test_decode_shr : decodeWord 0b1000_0001_0010_0110 = .ok (.shr 1 2) := by rfl
theorem test_decode_subn : decodeWord 0b1000_0001_0010_0111 = .ok (.subn 1 2) := by rfl
theorem test_decode_shl : decodeWord 0b1000_0001_0010_1110 = .ok (.shl 1 2) := by rfl
theorem test_decode_sneReg : decodeWord 0b1001_0001_0010_0000 = .ok (.sneReg 1 2) := by rfl
theorem test_decode_ldI : decodeWord 0b1010_0010_0010_0000 = .ok (.ldI 0x220) := by rfl
theorem test_decode_jpV0 : decodeWord 0b1011_0011_0000_0001 = .ok (.jpV0 0x301) := by rfl
theorem test_decode_rnd : decodeWord 0b1100_0011_0000_1111 = .ok (.rnd 3 0x0F) := by rfl
theorem test_decode_drw : decodeWord 0b1101_0001_0010_0101 = .ok (.drw 1 2 5) := by rfl
theorem test_decode_skp : decodeWord 0b1110_0100_1001_1110 = .ok (.skp 4) := by rfl
theorem test_decode_sknp : decodeWord 0b1110_0100_1010_0001 = .ok (.sknp 4) := by rfl
theorem test_decode_ldFromDT : decodeWord 0b1111_0010_0000_0111 = .ok (.ldFromDT 2) := by rfl
theorem test_decode_ldKey : decodeWord 0b1111_0011_0000_1010 = .ok (.ldKey 3) := by rfl
theorem test_decode_ldDT : decodeWord 0b1111_0010_0001_0101 = .ok (.ldDT 2) := by rfl
theorem test_decode_ldST : decodeWord 0b1111_0010_0001_1000 = .ok (.ldST 2) := by rfl
theorem test_decode_addI : decodeWord 0b1111_0001_0001_1110 = .ok (.addI 1) := by rfl
theorem test_decode_ldF : decodeWord 0b1111_1010_0010_1001 = .ok (.ldF 0xA) := by rfl
theorem test_decode_ldB : decodeWord 0b1111_0101_0011_0011 = .ok (.ldB 5) := by rfl
theorem test_decode_store : decodeWord 0b1111_0010_0101_0101 = .ok (.store 2) := by rfl
theorem test_decode_load : decodeWord 0b1111_0010_0110_0101 = .ok (.load 2) := by rfl

/-- V1.4 to V1.8: undefined words are refused with the word. -/
theorem test_decode_undefined : ∀ w ∈ [0x0000#16, 0x01E0, 0x5121, 0x8128, 0x9121, 0xE19F, 0xF100],
    ∃ e, decodeWord w = .error e ∧ e = .undefinedWord w := by
  intro w hw
  simp only [List.mem_cons, List.not_mem_nil, or_false] at hw
  rcases hw with rfl | rfl | rfl | rfl | rfl | rfl | rfl <;> exact ⟨_, rfl, rfl⟩

theorem test_decode_bytes_truncated : decodeBytes [0x12] = .error .truncated := by rfl

/-! Single steps. -/

/-- V1.1. -/
theorem test_step_undefined : ran 0x0000 State.reset (fun t =>
    t.errors == [⟨.decodeError, 0x200, some 0x0000, none⟩] && t.pc == 0x202 && t.run == .running) = true := by
  decide

/-- V1.9. -/
theorem test_step_fetch_at_top : after (step (State.reset.setPc 0xFFF)) (fun t =>
    t.errors == [⟨.memoryRange, 0xFFF, none, some 0x1000⟩] && t.run == .halted && t.pc == 0xFFF) = true := by
  decide

/-- V1.12. -/
theorem test_step_odd_pc : ran 0x6109 (State.reset.setPc 0x203) (fun t =>
    t.readV 1 == 9 && t.pc == 0x205) = true := by decide

/-- V5.2. -/
theorem test_cls : ran 0x00E0 (consumeRedrawFlag State.reset).2 (fun t =>
    t.redraw && t.pc == 0x202) = true := by decide

/-- V2.1. -/
theorem test_ret : ran 0x00EE ((State.reset.push 0x206).setPc 0x214) (fun t =>
    t.sp == 0 && t.pc == 0x206 && t.stack[0] == 0x206) = true := by decide

/-- V2.2. -/
theorem test_ret_empty : ran 0x00EE (State.reset.setPc 0x300) (fun t =>
    t.errors == [⟨.stackUnderflow, 0x300, some 0x00EE, none⟩] && t.pc == 0x302 && t.sp == 0) = true := by
  decide

/-- V2.4. -/
theorem test_jp_odd : ran 0x1203 State.reset (fun t => t.pc == 0x203) = true := by decide

/-- V2.6. -/
theorem test_call : ran 0x2210 State.reset (fun t =>
    t.stack[0] == 0x202 && t.sp == 1 && t.pc == 0x210) = true := by decide

/-- V2.7. -/
theorem test_call_full : ran 0x2210 ((List.range 16).foldl (fun s _ => s.push 0x202) State.reset) (fun t =>
    t.errors == [⟨.stackOverflow, 0x200, some 0x2210, none⟩] && t.pc == 0x202 && t.sp == 16) = true := by
  decide

/-- V2.10 and V2.11. -/
theorem test_seImm : ran 0x332A (regs [(3, 0x2A)]) (fun t => t.pc == 0x204) = true ∧
    ran 0x332B (regs [(3, 0x2A)]) (fun t => t.pc == 0x202) = true := by decide

/-- V2.12 and V2.13. -/
theorem test_sneImm : ran 0x432A (regs [(3, 0x2A)]) (fun t => t.pc == 0x202) = true ∧
    ran 0x4300 (regs [(3, 0x2A)]) (fun t => t.pc == 0x204) = true := by decide

/-- V2.14 and V2.15. -/
theorem test_seReg : ran 0x5120 (regs [(1, 7), (2, 7)]) (fun t => t.pc == 0x204) = true ∧
    ran 0x5120 (regs [(1, 7), (2, 8)]) (fun t => t.pc == 0x202) = true := by decide

/-- V2.17 and V2.18. -/
theorem test_sneReg : ran 0x9120 (regs [(1, 7), (2, 8)]) (fun t => t.pc == 0x204) = true ∧
    ran 0x9550 (regs [(5, 3)]) (fun t => t.pc == 0x202) = true := by decide

/-- V2.21: not masked. -/
theorem test_jpV0 : ran 0xBFFF (regs [(0, 0xFF)]) (fun t => t.pc == 0x10FE) = true := by decide

/-- V3.1. -/
theorem test_ldImm : ran 0x6A42 State.reset (fun t => t.readV 0xA == 0x42 && t.pc == 0x202) = true := by
  decide

/-- V3.3. -/
theorem test_addImm_wraps : ran 0x7002 (regs [(0, 0xFF), (0xF, 0xAA)]) (fun t =>
    t.readV 0 == 1 && t.readV 0xF == 0xAA) = true := by decide

/-- V3.7. -/
theorem test_ldReg : ran 0x8F20 (regs [(2, 0x99)]) (fun t =>
    t.readV 0xF == 0x99 && t.readV 2 == 0x99) = true := by decide

/-- V3.8. -/
theorem test_orReg : ran 0x8121 (regs [(1, 0x0F), (2, 0xF0), (0xF, 0xAA)]) (fun t =>
    t.readV 1 == 0xFF && t.readV 0xF == 0xAA) = true := by decide

/-- V3.9. -/
theorem test_andReg : ran 0x8122 (regs [(1, 0x3C), (2, 0x0F), (0xF, 0xAA)]) (fun t =>
    t.readV 1 == 0x0C && t.readV 0xF == 0xAA) = true := by decide

/-- V3.10. -/
theorem test_xorReg : ran 0x8123 (regs [(1, 0x3C), (2, 0x0F), (0xF, 0xAA)]) (fun t =>
    t.readV 1 == 0x33 && t.readV 0xF == 0xAA) = true := by decide

/-- V3.16. -/
theorem test_addReg : ran 0x8124 (regs [(1, 0xFF), (2, 0xFF)]) (fun t =>
    t.readV 1 == 0xFE && t.readV 0xF == 1) = true := by decide

/-- V3.18: X = F ends with the sum. -/
theorem test_addReg_into_flag : ran 0x8F14 (regs [(0xF, 0xF0), (1, 0x20)]) (fun t =>
    t.readV 0xF == 0x10) = true := by decide

/-- V3.21. -/
theorem test_subReg : ran 0x8125 (regs [(1, 3), (2, 5)]) (fun t =>
    t.readV 1 == 0xFE && t.readV 0xF == 0) = true := by decide

/-- V3.26: Y = F is read before the flag is written. -/
theorem test_subReg_from_flag : ran 0x81F5 (regs [(1, 7), (0xF, 5)]) (fun t =>
    t.readV 1 == 2 && t.readV 0xF == 1) = true := by decide

/-- V3.30: Y is ignored. -/
theorem test_shr : ran 0x8126 (regs [(1, 4), (2, 0xFF), (0xF, 0xAA)]) (fun t =>
    t.readV 1 == 2 && t.readV 0xF == 0 && t.readV 2 == 0xFF) = true := by decide

/-- V3.31: X = F. -/
theorem test_shr_flag : ran 0x8F06 (regs [(0xF, 6)]) (fun t => t.readV 0xF == 3) = true := by decide

/-- V3.33. -/
theorem test_subn : ran 0x8127 (regs [(1, 5), (2, 3), (0xF, 0xAA)]) (fun t =>
    t.readV 1 == 0xFE && t.readV 0xF == 0) = true := by decide

/-- V3.34: equal operands. -/
theorem test_subn_equal : ran 0x8127 (regs [(1, 9), (2, 9)]) (fun t =>
    t.readV 1 == 0 && t.readV 0xF == 1) = true := by decide

/-- V3.36. -/
theorem test_shl : ran 0x810E (regs [(1, 0x80)]) (fun t =>
    t.readV 1 == 0 && t.readV 0xF == 1) = true := by decide

/-- V3.40: X = F. -/
theorem test_shl_flag : ran 0x8F0E (regs [(0xF, 0xC0)]) (fun t => t.readV 0xF == 0x80) = true := by decide

/-- V3.41, for the draw 0xA7. -/
theorem test_rnd : after (rndWith 0xA7 3 0x0F State.reset) (fun t => t.readV 3 == 7) = true := by decide

/-- V4.1. -/
theorem test_ldI : ran 0xA123 State.reset (fun t => t.i == 0x123) = true := by decide

/-- V4.2. -/
theorem test_addI : ran 0xF11E ((regs [(1, 1), (0xF, 0xAA)]).setI 0x0FFF) (fun t =>
    t.i == 0x1000 && t.readV 0xF == 0xAA) = true := by decide

/-- V4.3. -/
theorem test_addI_wraps : ran 0xF11E ((regs [(1, 1)]).setI 0xFFFF) (fun t => t.i == 0) = true := by decide

/-- V4.7: not masked. -/
theorem test_ldF : ran 0xF029 (regs [(0, 0xFF)]) (fun t => t.i == 0x4FB) = true := by decide

/-- V4.12. -/
theorem test_ldB : ran 0xF533 ((regs [(5, 156)]).setI 0x300) (fun t =>
    t.mem.readBytes 0x300 3 == [1, 5, 6] && t.i == 0x300) = true := by decide

/-- V4.14: from the font area on. -/
theorem test_ldB_font : ran 0xF533 (State.reset.setI 0x04E) (fun t =>
    t.errors == [⟨.fontWrite, 0x200, some 0xF533, some 0x04E⟩] && t.run == .halted &&
      t.mem.read 0x050 == 0) = true := by decide

/-- V4.16. -/
theorem test_store : ran 0xF055 ((regs [(0, 0x11), (1, 0x22)]).setI 0x400) (fun t =>
    t.mem.readBytes 0x400 2 == [0x11, 0] && t.i == 0x400) = true := by decide

/-- V4.18. -/
theorem test_store_range : ran 0xFF55 ((regs [(0, 1)]).setI 0xFF1) (fun t =>
    t.errors == [⟨.memoryRange, 0x200, some 0xFF55, some 0x1000⟩] && t.mem.read 0xFF1 == 0) = true := by
  decide

/-- V4.20: the font can be read. -/
theorem test_load_font : ran 0xF465 (regs [(5, 7)]) (fun t =>
    t.v.toList.take 6 == [0xF0, 0x90, 0x90, 0x90, 0xF0, 7]) = true := by decide

/-- V4.22. -/
theorem test_load_range : ran 0xF165 ((regs [(0, 1)]).setI 0xFFF) (fun t =>
    t.errors == [⟨.memoryRange, 0x200, some 0xF165, some 0x1000⟩] && t.readV 0 == 1) = true := by decide

/-- V5.6: a 1 bit only turns a pixel on, a 0 bit leaves a lit one. -/
theorem test_drw_no_collision : ran 0xD121
    ((withBytes 0x300 [0x40] (State.reset.setScreen (setPixel blankScreen 0 0 true))).setI 0x300) (fun t =>
    pixelAt t.fb 0 0 && pixelAt t.fb 1 0 && t.readV 0xF == 0) = true := by decide

/-- V5.12: X = F is read before the flag is written; V5.9: start coordinates wrap. -/
theorem test_drw_flag_and_wrap :
    ran 0xDF11 ((withBytes 0x300 [0x80] (regs [(0xF, 5), (1, 2)])).setI 0x300) (fun t =>
      pixelAt t.fb 5 2 && t.readV 0xF == 0) = true ∧
    ran 0xD121 ((withBytes 0x300 [0x80] (regs [(1, 70), (2, 40)])).setI 0x300) (fun t =>
      pixelAt t.fb 6 8) = true := by decide

/-- V6.1 and V6.2. -/
theorem test_skp : ran 0xE49E (setKey 0xC true (regs [(4, 0xC)])) (fun t => t.pc == 0x204) = true ∧
    ran 0xE49E (regs [(4, 0xC)]) (fun t => t.pc == 0x202) = true := by decide

/-- V6.5. -/
theorem test_skp_no_key : ran 0xE49E (regs [(4, 0x10)]) (fun t =>
    t.errors == [⟨.keyIndex, 0x200, some 0xE49E, some 0x10⟩] && t.run == .halted && t.pc == 0x200) = true := by
  decide

/-- V6.3 and V6.4. -/
theorem test_sknp : ran 0xE4A1 (regs [(4, 0xC)]) (fun t => t.pc == 0x204) = true ∧
    ran 0xE4A1 (setKey 0xC true (regs [(4, 0xC)])) (fun t => t.pc == 0x202) = true := by decide

/-- V7.1. -/
theorem test_ldFromDT : ran 0xF207 (State.reset.setDT 0x1E) (fun t =>
    t.readV 2 == 0x1E && t.dt == 0x1E) = true := by decide

/-- V6.7. -/
theorem test_ldKey_waits : ran 0xF30A State.reset (fun t =>
    t.run == .awaitingKey && t.pc == 0x200 && t.readV 3 == 0) = true := by decide

/-- V6.9. -/
theorem test_ldKey_lowest : ran 0xF30A (setKey 9 true (setKey 3 true State.reset)) (fun t =>
    t.readV 3 == 3 && t.pc == 0x202 && t.run == .running) = true := by decide

/-- V7.2. -/
theorem test_ldDT : ran 0xF215 (regs [(2, 0x3C)]) (fun t => t.dt == 0x3C && t.st == 0) = true := by decide

/-- V7.3. -/
theorem test_ldST : ran 0xF218 (regs [(2, 5)]) (fun t => t.st == 5 && t.dt == 0 && soundActive t) = true := by
  decide

/-- V7.7: ticks go on in HALTED. -/
theorem test_tick_halted : (tickTimers ((State.reset.setRun .halted).setDT 5)).dt = 4 := by decide

/-- V8.2. -/
theorem test_getPixel : getPixel 63 31 (State.reset.setScreen (setPixel blankScreen 63 31 true)) = true ∧
    getPixel 64 0 State.reset = false ∧ getPixel (-1) 5 State.reset = false := by decide

theorem test_default_font_lists_nothing : fontMemory defaultFont = [] := by decide

/-- R350 with the default FONT from the reset state changes nothing: `State.reset` is a reset state. -/
theorem test_reset_is_reset : resetOp defaultFont State.reset = State.reset := by
  unfold resetOp
  rw [test_default_font_lists_nothing]
  rfl

/-! Witnesses: for each statement with hypotheses, inputs that meet them, for each clause at a boundary
of its range. The name after `witness_` is the statement's. -/

/-- A state whose log has the halting fault of a fetch at 0x1000. -/
def faulted : State := raise .memoryRange none (some 0x1000) (State.reset.setPc 0x1000)

/-- A full call stack. -/
def fullStack : State := (List.range 16).foldl (fun s _ => s.push 0x202) State.reset

/-- The reset state with the pixel (0, 0) on and the sprite byte 0x80 at I = 0x300. -/
def litCorner : State :=
  (withBytes 0x300 [0x80] (State.reset.setScreen (setPixel blankScreen 0 0 true))).setI 0x300

theorem witness_DecodeAndEncodeAreInverse : decodeWord 0xD125 = .ok (.drw 1 2 5) ∧
    encode (.drw 1 2 5) = 0xD125 := ⟨rfl, rfl⟩

theorem witness_DecoderAgreesWithOpcodeTable :
    decodeWord 0x8127 = .ok (.subn 1 2) ∧ (⟨"SUBN_Vx__Vy", 0x8007, 0xF00F⟩ : OpcodeRow) ∈ opcodeTable ∧
      wellFormedWord 0x8128 = false := ⟨rfl, by decide, by decide⟩

theorem witness_FetchIsBigEndian : (State.reset.setPc 0xFFE).pc.toNat ≤ 0xFFE ∧
    fetch (withBytes 0xFFE [0x60, 0x07] (State.reset.setPc 0xFFE)) = .ok 0x6007 := ⟨by decide, rfl⟩

theorem witness_StepRunsDecodedInstruction : ∃ s : State,
    s.run ≠ .halted ∧ s.pc.toNat ≤ 0xFFE ∧
      decodeWord (joinBytes (s.mem.read s.pc.toNat) (s.mem.read (s.pc.toNat + 1))) = .ok (.ldImm 0 7) :=
  ⟨withBytes 0xFFE [0x60, 0x07] (State.reset.setPc 0xFFE), by decide, by decide, rfl⟩

theorem witness_HaltedStepChangesNothing : faulted.run = .halted := rfl

theorem witness_FetchFaultsAboveMemory :
    ((State.reset.setPc 0xFFF).run ≠ .halted ∧ 0xFFE < (State.reset.setPc 0xFFF).pc.toNat) ∧
      (State.reset.setPc 0x1000).run ≠ .halted ∧ 0xFFE < (State.reset.setPc 0x1000).pc.toNat := by decide

theorem witness_UndefinedWordIsRecoverable : State.reset.run ≠ .halted ∧ fetch State.reset = .ok 0x0000 ∧
    decodeWord 0x0000 = .error (.undefinedWord 0x0000) := ⟨by decide, rfl, rfl⟩

/-- The four reports: HALTED, ERROR, AWAITING_KEY, OK. -/
theorem witness_StepReportsItsOutcome :
    (step faulted = .next faulted ∧ stepResult faulted faulted = .halted) ∧
    ran 0x0000 State.reset (fun t => stepResult State.reset t == .error .decodeError) = true ∧
    ran 0xF30A State.reset (fun t => stepResult State.reset t == .awaitingKey) = true ∧
    ran 0x6A42 State.reset (fun t => stepResult State.reset t == .ok) = true :=
  ⟨⟨rfl, rfl⟩, by decide, by decide, by decide⟩

/-- The three clauses: no error, a recoverable error, a halting fault. -/
theorem witness_StepFollowsPcTable :
    (∃ t, step (State.reset.withFetchWord 16 0x1234) = .next t ∧ t.errors = []) ∧
    (∃ t, step (State.reset.withFetchWord 16 0x00EE) = .next t ∧ t.errors ≠ [] ∧ t.run = .running) ∧
    (∃ t, step (State.reset.withFetchWord 16 0xF055) = .next t ∧ t.errors ≠ [] ∧ t.run ≠ .running) :=
  ⟨⟨_, rfl, rfl⟩, ⟨_, rfl, by decide, rfl⟩, ⟨_, rfl, by decide, by decide⟩⟩

theorem witness_SelfJumpIsFixedPoint : ∃ s : State,
    s.run ≠ .halted ∧ s.pc.toNat = (0x200 : Addr12).toNat ∧ fetch s = .ok (0x1#4 ++ (0x200 : Addr12)) :=
  ⟨State.reset.withFetchWord 16 0x1200, by decide, by decide, rfl⟩

theorem witness_CallPushesReturnAddress : State.reset.sp.val < 16 ∧ fullStack.pop.sp.val = 15 ∧
    fullStack.sp.val = 16 := by decide

theorem witness_ReturnPopsIntoPc : 0 < (State.reset.push 0x202).sp.val ∧ 0 < fullStack.sp.val ∧
    State.reset.sp.val = 0 := by decide

theorem witness_ReturnUndoesCall : fullStack.pop.sp.val < 16 ∧
    ∃ t, exec (.call 0x210) fullStack.pop = .next t := ⟨by decide, _, rfl⟩

/-- The flag's clause asks for X ≠ F. -/
theorem witness_flag_clauses : (1 : Reg) ≠ 0xF := by decide

/-- 0x050 and 0xFFD complete, 0x04F and 0xFFE fault. -/
theorem witness_BcdStoresDecimalDigits :
    (0x050 ≤ (State.reset.setI 0x050).i.toNat ∧ (State.reset.setI 0xFFD).i.toNat + 2 ≤ 0xFFF) ∧
      (State.reset.setI 0x04F).i.toNat ≤ 0x04F ∧ 0xFFF < (State.reset.setI 0xFFE).i.toNat + 2 := by decide

/-- Sixteen registers end at 0xFFF from 0xFF0, and pass it from 0xFF1. -/
theorem witness_StoreWritesRegisters :
    (0x050 ≤ (State.reset.setI 0xFF0).i.toNat ∧
      (State.reset.setI 0xFF0).i.toNat + (0xF : Reg).toNat ≤ 0xFFF) ∧
      (State.reset.setI 0x04F).i.toNat ≤ 0x04F ∧
      0xFFF < (State.reset.setI 0xFF1).i.toNat + (0xF : Reg).toNat := by decide

theorem witness_LoadReadsRegisters : State.reset.i.toNat + (0 : Reg).toNat ≤ 0xFFF ∧
    (State.reset.setI 0xFF0).i.toNat + (0xF : Reg).toNat ≤ 0xFFF ∧
    0xFFF < (State.reset.setI 0xFFF).i.toNat + (1 : Reg).toNat := by decide

/-- L1.2: V0..V2 stored at 0x220 and loaded into zeroed registers. -/
theorem witness_StoreThenLoadRestores : ∃ s : State,
    0x050 ≤ s.i.toNat ∧ s.i.toNat + (2 : Reg).toNat ≤ 0xFFF ∧ ∃ t u, exec (.store 2) s = .next t ∧
      exec (.load 2) (t.setRegs (Vector.replicate 16 0)) = .next u :=
  ⟨(regs [(0, 1), (1, 2), (2, 3)]).setI 0x220, by decide, by decide, _, _, rfl, rfl⟩

theorem witness_StoredWordIsFetchedNext : ∃ s : State,
    1 ≤ (1 : Reg).toNat ∧ 0x050 ≤ s.i.toNat ∧ s.i.toNat + (1 : Reg).toNat ≤ 0xFFF ∧
      s.pc.toNat + 2 = s.i.toNat ∧ ∃ t, exec (.store 1) s = .next t :=
  ⟨(regs [(0, 0x6A), (1, 0x42)]).setI 0x202, by decide, by decide, by decide, by decide, _, rfl⟩

/-- Two writes in either order leave one canonical memory. -/
theorem witness_CanonicalMemoriesAreEqual :
    ((Memory.write [] 0x300 1).write 0x200 2).wf ∧ ((Memory.write [] 0x200 2).write 0x300 1).wf ∧
      (Memory.write [] 0x300 1).write 0x200 2 = (Memory.write [] 0x200 2).write 0x300 1 := by decide

/-- N = 0 with any I, the last byte at 0xFFF, and one byte past it. -/
theorem witness_DrawFlipsSpritePixels :
    ((0 : Nibble) = 0 ∨ (State.reset.setI 0xFFFF).i.toNat + (0 : Nibble).toNat ≤ 0x1000) ∧
    ((5 : Nibble) = 0 ∨ (State.reset.setI 0xFFB).i.toNat + (5 : Nibble).toNat ≤ 0x1000) ∧
    ((5 : Nibble) ≠ 0 ∧ 0x1000 < (State.reset.setI 0xFFC).i.toNat + (5 : Nibble).toNat) := by decide

/-- A pixel the sprite covers, which is on: the clause of the collision. -/
theorem witness_DrawFlipsSpritePixels_covered : ∃ px py,
    spriteCovers litCorner (litCorner.readV 1).toNat (litCorner.readV 2).toNat 1 px py ∧
      pixelAt litCorner.fb px py = true :=
  ⟨0, 0, ⟨0, 0, by decide, by decide, by decide, by decide, by decide⟩, by decide⟩

theorem witness_DoubleDrawRestoresScreen : (1 : Reg) ≠ 0xF ∧ (2 : Reg) ≠ 0xF ∧
    ((1 : Nibble) = 0 ∨ litCorner.i.toNat + (1 : Nibble).toNat ≤ 0x1000) ∧
    ∃ t u, exec (.drw 1 2 1) litCorner = .next t ∧ exec (.drw 1 2 1) t = .next u :=
  ⟨by decide, by decide, by decide, _, _, rfl, rfl⟩

/-- V5.5: every pixel under the sprite was on, so the first draw collides and the second does not: the
case in which SecondDrawAlwaysCollides fails (log 12). -/
theorem witness_SecondDrawAlwaysCollides :
    after (exec (.drw 1 2 1) litCorner) (fun t => t.readV 0xF == 1 && !pixelAt t.fb 0 0 &&
      after (exec (.drw 1 2 1) t) fun u => u.readV 0xF == 0 && pixelAt u.fb 0 0) = true := by decide

/-- The sprite byte 0x80 at I = 0x300 over a dark screen: the second draw collides. -/
theorem witness_SecondDrawCollidesFromDarkArea : (1 : Reg) ≠ 0xF ∧ (2 : Reg) ≠ 0xF ∧ ∃ s : State,
    ((1 : Nibble) = 0 ∨ s.i.toNat + (1 : Nibble).toNat ≤ 0x1000) ∧
    (∀ px py, spriteCovers s (s.readV 1).toNat (s.readV 2).toNat 1 px py → pixelAt s.fb px py = false) ∧
    ∃ t u, exec (.drw 1 2 1) s = .next t ∧ exec (.drw 1 2 1) t = .next u ∧ u.readV 0xF = 1 :=
  ⟨by decide, by decide, (withBytes 0x300 [0x80] State.reset).setI 0x300, by decide,
    fun px py _ => pixelAt_blankScreen px py, _, _, rfl, rfl, by decide⟩

/-- Keys 0 and 15 are keys; 16 and 255 are not. -/
theorem witness_KeyQueriesSkip : ((regs [(4, 0)]).readV 4).toNat = 0 ∧ ((regs [(4, 15)]).readV 4).toNat = 15 ∧
    0x0F < ((regs [(4, 16)]).readV 4).toNat ∧ 0x0F < ((regs [(4, 255)]).readV 4).toNat := by decide

theorem witness_KeyWaitTakesLowestKey : ∃ s : State,
    (s.key[3] = true ∧ ∀ j (hj : j < 3), s.key[j] = false) ∧
      ∀ j (hj : j < 16), State.reset.key[j] = false :=
  ⟨setKey 9 true (setKey 3 true State.reset), by decide, by decide⟩

/-- Key 0, the lowest there is, and key 15, the last one tried. -/
theorem witness_KeyWaitTakesLowestKey_ends : (setKey 0 true State.reset).key[0] = true ∧
    (setKey 15 true State.reset).key[15] = true ∧
      ∀ j (hj : j < 15), (setKey 15 true State.reset).key[j] = false := by decide

theorem witness_KeyWaitHoldsForever : ∃ s : State,
    s.run ≠ .halted ∧ fetch s = .ok (0xF#4 ++ (3 : Reg) ++ 0x0A#8) ∧
      ∀ j (hj : j < 16), s.key[j] = false :=
  ⟨State.reset.withFetchWord 16 0xF30A, by decide, rfl, by decide⟩

theorem witness_SetTimers : (State.reset.readV 2).toNat = 0 := by decide

/-- V6.12, and the keys at the ends of the range; an operation that is neither setKey nor reset. -/
theorem witness_SetKeyWritesOneKey :
    (setKey 0 true State.reset).key[0] = true ∧ (setKey 15 true State.reset).key[15] = true ∧
    ((-1 : Int) < 0 ∨ 15 < (-1 : Int)) ∧ ((16 : Int) < 0 ∨ 15 < (16 : Int)) ∧
    ∃ t, HostOp.tickTimers.apply State.reset = .next t :=
  ⟨by decide, by decide, by decide, by decide, _, rfl⟩

theorem witness_HostReadsDisplayAndSound : (63 : Int) = ((63 : Fin 64).val : Int) ∧
    (31 : Int) = ((31 : Fin 32).val : Int) ∧ ((64 : Int) < 0 ∨ 63 < (64 : Int)) := by decide

/-- A step that clears a lit screen: the clauses about a change of the screen and about a set flag. -/
theorem witness_RedrawFlagFollowsScreen :
    after (HostOp.step.apply (litCorner.withFetchWord 16 0x00E0)) (fun t =>
      (!pixelAt t.fb 0 0) && pixelAt litCorner.fb 0 0) = true ∧
    after (exec (.drw 1 2 1) litCorner) (fun t => t.run == .running) = true ∧
    HostOp.step ≠ .consumeRedrawFlag ∧ litCorner.redraw = true := by decide

/-- L1.5: 3584 bytes fit and 3585 do not. -/
theorem witness_LoadProgramIsAllOrNothing : (List.replicate 3584 (0x61 : Byte)).length ≤ 3584 ∧
    3584 < (List.replicate 3585 (0x61 : Byte)).length := by
  rw [List.length_replicate, List.length_replicate]; decide

theorem witness_OnlyNamedWritersWrite : (∃ t, exec (.addReg 1 2) State.reset = .next t) ∧
    mayWriteReg (.addReg 1 2) 2 = false := ⟨⟨_, rfl⟩, by decide⟩

theorem witness_ErrorsArePrecise : ∃ t, step State.reset = .next t := ⟨_, rfl⟩

theorem witness_FontAreaIsImmutable : (∀ op ∈ [HostOp.step, HostOp.tickTimers], ∀ f, op ≠ .reset f) ∧
    ∃ t, runOps [HostOp.step, HostOp.tickTimers] State.reset = .next t := by
  refine ⟨?_, _, rfl⟩
  intro op h f
  simp only [List.mem_cons, List.not_mem_nil, or_false] at h
  rcases h with rfl | rfl <;> exact HostOp.noConfusion

theorem witness_OnlyResetLeavesHalted : (∀ op ∈ [HostOp.step, HostOp.tickTimers], ∀ f, op ≠ .reset f) ∧
    faulted.run = .halted ∧ ∃ t, runOps [HostOp.step, HostOp.tickTimers] faulted = .next t :=
  ⟨witness_FontAreaIsImmutable.1, rfl, _, rfl⟩

/-- A halted machine with a record and a byte in memory meets the invariant and goes on. -/
theorem witness_InvariantKept : (withBytes 0x200 [0x12] faulted).Inv ∧
    (∃ t, step (withBytes 0x200 [0x12] faulted) = .next t) ∧
    ∃ t, runOps [HostOp.step, HostOp.tickTimers] (withBytes 0x200 [0x12] faulted) =
      .next t := by
  refine ⟨⟨by decide, ?_, fun _ => ⟨_, rfl, rfl, rfl⟩⟩, ⟨_, rfl⟩, _, rfl⟩
  intro r hr
  obtain rfl : r = ⟨.memoryRange, 0x1000, none, some 0x1000⟩ := List.mem_singleton.1 hr
  exact ⟨⟨_, rfl, by decide⟩, Or.inl rfl⟩

end Sys2Proof.Tests
end

section
/-! REDRAW follows the screen (10_state.md R43): no operation writes the framebuffer without setting the
flag. It is shown once for what every step ends in (a completion, an error, an access), then for each
instruction, the step and each operation of the host. -/

namespace Sys2Proof.Machine

/-! What a failed access is, and what an error leaves. -/

theorem checkRead_eq_some {a : Nat} {f : AccessFault} :
    checkRead a = some f ↔ 0xFFF < a ∧ f = ⟨.memoryRange, a⟩ := by
  simp [checkRead, Config.lastAddr, eq_comm]

/-- A read fails for its range only (R61). -/
theorem kind_of_firstFault_read {a n : Nat} {f : AccessFault}
    (h : firstFault checkRead a n = some f) : f.kind = .memoryRange := by
  obtain ⟨k, -, hk, -⟩ := firstFault_eq_some.1 h
  obtain ⟨-, rfl⟩ := checkRead_eq_some.1 hk
  rfl

/-- Everything an access can do (R64). -/
theorem accessing_cases (i : Instr) (check : Nat → Option AccessFault) (n : Nat) (s d : State) :
    (firstFault check s.i.toNat n = none ∧ accessing i check n s d = advance d) ∨
    ∃ f, firstFault check s.i.toNat n = some f ∧
      accessing i check n s d = raiseBy i f.kind (some f.addr) s := by
  cases h : firstFault check s.i.toNat n with
  | none => exact .inl ⟨rfl, accessing_ok h d⟩
  | some f => exact .inr ⟨f, rfl, accessing_fault h d⟩

@[simp] theorem raise_fb (k : ErrorKind) (w : Option Word) (info : Option Nat) (s : State) :
    (raise k w info s).fb = s.fb := by rw [raise_eq]

@[simp] theorem raise_redraw (k : ErrorKind) (w : Option Word) (info : Option Nat) (s : State) :
    (raise k w info s).redraw = s.redraw := by rw [raise_eq]

@[simp] theorem raise_run (k : ErrorKind) (w : Option Word) (info : Option Nat) (s : State) :
    (raise k w info s).run = if k.halting then .halted else .running := by rw [raise_eq]

/-! The relation every operation but consumeRedrawFlag keeps to. -/

/-- From `s` to `t` neither the screen nor REDRAW changed, or REDRAW is set in `t`. -/
def KeepsOrFlagsScreen (s t : State) : Prop :=
  (t.fb = s.fb ∧ t.redraw = s.redraw) ∨ t.redraw = true

theorem KeepsOrFlagsScreen.redraw_of_fb_ne {s t : State} (h : KeepsOrFlagsScreen s t)
    (hne : t.fb ≠ s.fb) : t.redraw = true :=
  h.resolve_left fun hkept => hne hkept.1

theorem KeepsOrFlagsScreen.redraw_of_redraw {s t : State} (h : KeepsOrFlagsScreen s t)
    (hs : s.redraw = true) : t.redraw = true :=
  h.elim (fun hkept => hkept.2.trans hs) id

theorem raise_keepsOrFlagsScreen (k : ErrorKind) (w : Option Word) (info : Option Nat) (s : State) :
    KeepsOrFlagsScreen s (raise k w info s) :=
  .inl ⟨raise_fb k w info s, raise_redraw k w info s⟩

/-- Every next state the step answers keeps to the relation. -/
def AnswersKeepingScreen (s : State) (r : Step) : Prop :=
  ∀ t, r = .next t → KeepsOrFlagsScreen s t

theorem next_keepsScreen {s d : State} (h : KeepsOrFlagsScreen s d) :
    AnswersKeepingScreen s (.next d) := by
  rintro _ ⟨⟩
  exact h

theorem complete_keepsScreen {s d : State} (h : KeepsOrFlagsScreen s d) (w : Word) :
    AnswersKeepingScreen s (complete w d) :=
  next_keepsScreen h

theorem raiseBy_keepsScreen (i : Instr) (k : ErrorKind) (info : Option Nat) (s : State) :
    AnswersKeepingScreen s (raiseBy i k info s) :=
  next_keepsScreen (raise_keepsOrFlagsScreen k _ info s)

theorem accessing_keepsScreen {s d : State} (h : KeepsOrFlagsScreen s d) (i : Instr)
    (check : Nat → Option AccessFault) (n : Nat) :
    AnswersKeepingScreen s (accessing i check n s d) := by
  rcases accessing_cases i check n s d with ⟨-, e⟩ | ⟨f, -, e⟩ <;> rw [e]
  · exact complete_keepsScreen h _
  · exact raiseBy_keepsScreen _ _ _ _

theorem keyQuery_keepsScreen (i : Instr) (x : Reg) (wanted : Bool) (s : State) :
    AnswersKeepingScreen s (keyQuery i x wanted s) := by
  unfold keyQuery
  split
  · exact complete_keepsScreen (.inl ⟨rfl, rfl⟩) _
  · exact raiseBy_keepsScreen _ _ _ _

/-! The instructions. -/

@[simp] theorem drawn_redraw (x y : Reg) (n : Nibble) (s : State) :
    (drawn x y n s).redraw = true := rfl

theorem execRet_keepsScreen (s : State) : AnswersKeepingScreen s (execRet s) := by
  unfold execRet
  split
  · exact raiseBy_keepsScreen _ _ _ _
  · exact complete_keepsScreen (.inl ⟨rfl, rfl⟩) _

theorem execCall_keepsScreen (nnn : Addr12) (s : State) :
    AnswersKeepingScreen s (execCall nnn s) := by
  unfold execCall
  split
  · exact raiseBy_keepsScreen _ _ _ _
  · exact complete_keepsScreen (.inl ⟨s.push_fb _, s.push_redraw _⟩) _

theorem execLdKey_keepsScreen (x : Reg) (s : State) : AnswersKeepingScreen s (execLdKey x s) := by
  unfold execLdKey
  split
  · exact complete_keepsScreen (.inl ⟨rfl, rfl⟩) _
  · exact next_keepsScreen (.inl ⟨rfl, rfl⟩)

/-- 00E0 and DXYN set REDRAW with the screen they write; no other instruction writes either. -/
theorem exec_keepsScreen (i : Instr) (s : State) : AnswersKeepingScreen s (exec i s) := by
  cases i
  case cls => exact complete_keepsScreen (.inr rfl) _
  case drw x y n => exact accessing_keepsScreen (.inr (drawn_redraw x y n s)) _ _ _
  case ret => exact execRet_keepsScreen s
  case call nnn => exact execCall_keepsScreen nnn s
  case skp x => exact keyQuery_keepsScreen (.skp x) x true s
  case sknp x => exact keyQuery_keepsScreen (.sknp x) x false s
  case ldKey x => exact execLdKey_keepsScreen x s
  case ldB | store | load =>
    refine accessing_keepsScreen ?_ _ _ _
    exact .inl ⟨rfl, rfl⟩
  -- every other instruction only completes
  all_goals
    refine complete_keepsScreen ?_ _
    exact .inl ⟨rfl, rfl⟩

theorem execCls_redraw {s t : State} (h : exec .cls s = .next t) : t.redraw = true := by
  cases h
  rfl

/-- A draw whose sprite is not in memory halts, so a draw that leaves the machine running has drawn. -/
theorem execDrw_redraw {x y : Reg} {n : Nibble} {s t : State}
    (h : exec (.drw x y n) s = .next t) (hrun : t.run = .running) : t.redraw = true := by
  rcases accessing_cases (.drw x y n) checkRead n.toNat s (drawn x y n s) with ⟨-, e⟩ | ⟨f, hf, e⟩
  · cases e.symm.trans h
    rfl
  · cases e.symm.trans h
    rw [raise_run, kind_of_firstFault_read hf] at hrun
    exact RunState.noConfusion hrun

/-! The step and the operations of the host. -/

theorem step_keepsScreen (s : State) : AnswersKeepingScreen s (step s) := by
  rcases step_cases s with ⟨-, e⟩ | ⟨-, f, -, e⟩ | ⟨-, w, _, -, -, e⟩ | ⟨-, _, i, -, -, e⟩ <;> rw [e]
  · exact next_keepsScreen (.inl ⟨rfl, rfl⟩)
  · exact next_keepsScreen (raise_keepsOrFlagsScreen ..)
  · exact next_keepsScreen (raise_keepsOrFlagsScreen ..)
  · exact exec_keepsScreen i s

theorem loadProgram_keepsOrFlagsScreen (bytes : List Byte) (s : State) :
    KeepsOrFlagsScreen s (loadProgram bytes s).1 := by
  unfold loadProgram
  split <;> exact .inl ⟨rfl, rfl⟩

theorem setKey_keepsOrFlagsScreen (key : Int) (pressed : Bool) (s : State) :
    KeepsOrFlagsScreen s (setKey key pressed s) := by
  unfold setKey
  split <;> exact .inl ⟨rfl, rfl⟩

@[simp] theorem resetOp_redraw (font : Vector Byte 80) (s : State) :
    (resetOp font s).redraw = true := rfl

theorem HostOp.apply_keepsScreen {op : HostOp} (hop : op ≠ .consumeRedrawFlag) (s : State) :
    AnswersKeepingScreen s (op.apply s) := by
  cases op with
  | consumeRedrawFlag => exact absurd rfl hop
  | reset font => exact next_keepsScreen (.inr (resetOp_redraw font s))
  | loadProgram bytes => exact next_keepsScreen (loadProgram_keepsOrFlagsScreen bytes s)
  | step => exact step_keepsScreen s
  | setKey key pressed => exact next_keepsScreen (setKey_keepsOrFlagsScreen key pressed s)
  | tickTimers | getPixel | soundActive | errors => exact next_keepsScreen (.inl ⟨rfl, rfl⟩)

/-- `consumeRedrawFlag` clears the flag and leaves the screen (R322). -/
theorem HostOp.fb_of_consumeRedrawFlag {s t : State}
    (h : HostOp.consumeRedrawFlag.apply s = .next t) : t.fb = s.fb := by
  cases h
  rfl

theorem HostOp.redraw_of_fb_ne {op : HostOp} {s t : State} (h : op.apply s = .next t)
    (hne : t.fb ≠ s.fb) : t.redraw = true := by
  refine (HostOp.apply_keepsScreen ?_ s t h).redraw_of_fb_ne hne
  rintro rfl
  exact hne (HostOp.fb_of_consumeRedrawFlag h)

/-- Settles O50: an operation that is not consumeRedrawFlag keeps the screen and the flag, or sets the
flag; consumeRedrawFlag does not write the screen. -/
theorem redrawFlagFollowsScreen : Obligations.RedrawFlagFollowsScreen :=
  ⟨fun _ _ => execCls_redraw, fun _ _ _ _ _ => execDrw_redraw, resetOp_redraw,
    fun _ _ _ => HostOp.redraw_of_fb_ne,
    fun _ s t h hop => (HostOp.apply_keepsScreen hop s t h).redraw_of_redraw⟩

end Sys2Proof.Machine
end

section
/-! The fetch's word as a number (20_memory.md R65): where the fetch succeeds, joining the two bytes it
reads is the big-endian value. -/

namespace Sys2Proof.Machine

/-- Settles O5: up to 0xFFE the fetch answers the joined bytes, whatever the parity of PC. -/
theorem fetchIsBigEndian : Obligations.FetchIsBigEndian := by
  intro s hpc
  exact ⟨_, fetch_ok hpc, joinBytes_toNat _ _⟩

end Sys2Proof.Machine
end

section
/-! Decoding and encoding are inverse (30_encoding.md R91, R92, R95, R96). In one direction the decoder
reads the fields of a format back. In the other the family and the function code it has tested, put back
in front of and behind the fields it has read, are the word. -/

namespace Sys2Proof

/-! From an instruction to its word and back. -/

theorem decodeWord_encode (i : Instr) : decodeWord (encode i) = .ok i := by
  cases i with
  | cls | ret => rfl
  | jp | call | ldI | jpV0 | seImm | sneImm | ldImm | addImm | rnd | drw =>
    simp [encode, decodeWord]
  | seReg => simp [encode, decodeWord, decodeFamily5]
  | sneReg => simp [encode, decodeWord, decodeFamily9]
  | ldReg | orReg | andReg | xorReg | addReg | subReg | shr | subn | shl =>
    simp [encode, decodeWord, decodeFamily8]
  | skp | sknp => simp [encode, decodeWord, decodeFamilyE]
  | ldFromDT | ldKey | ldDT | ldST | addI | ldF | ldB | store | load =>
    simp [encode, decodeWord, decodeFamilyF]

/-! A word from its fields, where the family and the function code are known. -/

theorem formatA_of_family {w : Word} {f : Nibble} (hf : w.family = f) :
    formatA f w.fieldNNN = w := hf ▸ formatA_fields w

theorem formatXNN_of_family {w : Word} {f : Nibble} (hf : w.family = f) :
    formatXNN f w.fieldX w.fieldNN = w := hf ▸ formatXNN_fields w

theorem formatXNN_of_code {w : Word} {f : Nibble} {c : Byte} (hf : w.family = f)
    (hc : w.fieldNN = c) : formatXNN f w.fieldX c = w := hc ▸ formatXNN_of_family hf

theorem formatXYN_of_family {w : Word} {f : Nibble} (hf : w.family = f) :
    formatXYN f w.fieldX w.fieldY w.fieldN = w := hf ▸ formatXYN_fields w

theorem formatXYN_of_code {w : Word} {f n : Nibble} (hf : w.family = f) (hn : w.fieldN = n) :
    formatXYN f w.fieldX w.fieldY n = w := hn ▸ formatXYN_of_family hf

/-! From a word to the instruction read from it and back. -/

/-- If the decoder's answer `d` is an instruction, `w` is that instruction's word. -/
def AnswersForWord (w : Word) (d : Except Reject Instr) : Prop := ∀ i, d = .ok i → encode i = w

theorem answersForWord_ok {w : Word} {i : Instr} (h : encode i = w) : AnswersForWord w (.ok i) := by
  rintro _ ⟨⟩
  exact h

theorem answersForWord_error (w : Word) (e : Reject) : AnswersForWord w (.error e) := nofun

theorem decodeFamily0_answersForWord (w : Word) : AnswersForWord w (decodeFamily0 w) := by
  unfold decodeFamily0
  split
  · next h => exact answersForWord_ok h.symm
  · split
    · next h => exact answersForWord_ok h.symm
    · exact answersForWord_error w _

theorem decodeFamily5_answersForWord {w : Word} (hf : w.family = 0x5#4) :
    AnswersForWord w (decodeFamily5 w) := by
  unfold decodeFamily5
  split
  · next hn => exact answersForWord_ok (formatXYN_of_code hf hn)
  · exact answersForWord_error w _

theorem decodeFamily8_answersForWord {w : Word} (hf : w.family = 0x8#4) :
    AnswersForWord w (decodeFamily8 w) := by
  unfold decodeFamily8
  split
  case h_10 => exact answersForWord_error w _
  all_goals next hn => exact answersForWord_ok (formatXYN_of_code hf hn)

theorem decodeFamily9_answersForWord {w : Word} (hf : w.family = 0x9#4) :
    AnswersForWord w (decodeFamily9 w) := by
  unfold decodeFamily9
  split
  · next hn => exact answersForWord_ok (formatXYN_of_code hf hn)
  · exact answersForWord_error w _

theorem decodeFamilyE_answersForWord {w : Word} (hf : w.family = 0xE#4) :
    AnswersForWord w (decodeFamilyE w) := by
  unfold decodeFamilyE
  split
  case h_3 => exact answersForWord_error w _
  all_goals next hc => exact answersForWord_ok (formatXNN_of_code hf hc)

theorem decodeFamilyF_answersForWord {w : Word} (hf : w.family = 0xF#4) :
    AnswersForWord w (decodeFamilyF w) := by
  unfold decodeFamilyF
  split
  case h_10 => exact answersForWord_error w _
  all_goals next hc => exact answersForWord_ok (formatXNN_of_code hf hc)

theorem decodeWord_answersForWord (w : Word) : AnswersForWord w (decodeWord w) := by
  unfold decodeWord
  split
  case h_1 => exact decodeFamily0_answersForWord w
  case h_6 hf => exact decodeFamily5_answersForWord hf
  case h_9 hf => exact decodeFamily8_answersForWord hf
  case h_10 hf => exact decodeFamily9_answersForWord hf
  case h_15 hf => exact decodeFamilyE_answersForWord hf
  case h_16 =>
    have hf : w.family = 0xF#4 := by
      simp only [imp_false] at *
      bv_omega
    exact decodeFamilyF_answersForWord hf
  case h_2 hf | h_3 hf | h_11 hf | h_12 hf => exact answersForWord_ok (formatA_of_family hf)
  case h_4 hf | h_5 hf | h_7 hf | h_8 hf | h_13 hf =>
    exact answersForWord_ok (formatXNN_of_family hf)
  case h_14 hf => exact answersForWord_ok (formatXYN_of_family hf)

/-- Settles O1: whatever the decoder reads has the word it was read from, and the decoder reads every
instruction back from its own word. -/
theorem decodeAndEncodeAreInverse : Obligations.DecodeAndEncodeAreInverse := by
  intro w i
  constructor
  · exact decodeWord_answersForWord w i
  · rintro rfl
    exact decodeWord_encode i

end Sys2Proof
end

section
/-! An undefined word (40_cycle.md R122): the step raises DecodeError, the entry of a recoverable error
appends its record and skips the word, and the report is read off the record appended (R124). -/

namespace Sys2Proof.Machine

theorem step_of_decodeWord_error {s : State} {w : Word} {e : Reject} (hrun : s.run ≠ .halted)
    (hf : fetch s = .ok w) (hd : decodeWord w = .error e) :
    step s = .next (raise .decodeError (some w) none s) := by
  simp [step, hrun, hf, hd, stepUndefined]

/-- The log, PC and RUN are all that taking an error writes. -/
theorem raise_unchanged (k : ErrorKind) (w : Option Word) (info : Option Nat) (s : State) :
    UnchangedExcept [.errors, .pc, .run] s (raise k w info s) := by
  intro f hf
  rw [raise_eq]
  cases f with
  | errors | pc | run => exact absurd hf (by decide)
  | v | mem => exact fun _ => rfl
  | fb => exact fun _ _ => rfl
  | i | stack | sp | dt | st | key | redraw | draws => rfl

@[simp] theorem raise_errors (k : ErrorKind) (w : Option Word) (info : Option Nat) (s : State) :
    (raise k w info s).errors = s.errors ++ [⟨k, s.pc, w, info⟩] := by rw [raise_eq]

@[simp] theorem raise_pc (k : ErrorKind) (w : Option Word) (info : Option Nat) (s : State) :
    (raise k w info s).pc = if k.halting then s.pc else s.pc + 2 := by rw [raise_eq]

/-- A recoverable error skips the instruction, modulo 2^16 (R302). -/
theorem raise_advancedBy {k : ErrorKind} (hk : k.halting = false) (w : Option Word)
    (info : Option Nat) (s : State) : AdvancedBy 2 s (raise k w info s) := by
  constructor
  · simp [hk, BitVec.toNat_add]
  · simp [hk]

theorem raise_tookRecoverable {k : ErrorKind} (hk : k.halting = false) (w : Word) (s : State) :
    TookRecoverable k w s (raise k (some w) none s) :=
  ⟨raise_errors .., raise_advancedBy hk .., raise_unchanged k (some w) none s⟩

/-- A step that appended a record reports its kind (R124). -/
theorem stepResult_of_errors_append {s t : State} {r : ErrorRecord} (hrun : s.run ≠ .halted)
    (ht : t.errors = s.errors ++ [r]) : stepResult s t = .error r.kind := by
  simp [stepResult, hrun, ht]

/-- Settles O10: the step is `raise` of DecodeError, which is a recoverable error. -/
theorem undefinedWordIsRecoverable : Obligations.UndefinedWordIsRecoverable := by
  refine ⟨rfl, fun s w hrun hf hd => ?_⟩
  exact ⟨_, step_of_decodeWord_error hrun hf hd, raise_tookRecoverable rfl w s,
    stepResult_of_errors_append hrun (raise_errors ..)⟩

end Sys2Proof.Machine
end

section
/-! Jumps, calls and the skips on an immediate (41_control_flow.md R141, R143, R144, R145). What a
completion and a push leave unchanged is said once, and a frame of two updates in a row is the two
frames together. -/

namespace Sys2Proof.Machine

/-! Frames. -/

theorem Field.same.trans {f : Field} {s t u : State} (hst : f.same s t) (htu : f.same t u) :
    f.same s u := by
  cases f with
  | v | mem => exact fun a => (htu a).trans (hst a)
  | fb => exact fun x y => (htu x y).trans (hst x y)
  | i | pc | stack | sp | dt | st | key | redraw | run | errors | draws =>
    exact Eq.trans htu hst

/-- What neither of two updates in a row writes is unchanged by both. -/
theorem UnchangedExcept.trans {fs gs : List Field} {s t u : State} (hst : UnchangedExcept fs s t)
    (htu : UnchangedExcept gs t u) : UnchangedExcept (fs ++ gs) s u := by
  intro f hf
  rw [List.mem_append, not_or] at hf
  obtain ⟨hfs, hgs⟩ := hf
  exact (hst f hfs).trans (htu f hgs)

/-- A completion writes PC and RUN (R121). -/
theorem complete_unchanged (w : Word) (s : State) :
    UnchangedExcept [.pc, .run] s ((s.setPc w).setRun .running) := by
  intro f hf
  cases f with
  | pc | run => exact absurd hf (by decide)
  | v | mem => exact fun _ => rfl
  | fb => exact fun _ _ => rfl
  | i | stack | sp | dt | st | key | redraw | errors | draws => rfl

theorem push_unchanged (w : Word) (s : State) : UnchangedExcept [.stack, .sp] s (s.push w) := by
  intro f hf
  cases f with
  | stack | sp => exact absurd hf (by decide)
  | v => exact s.readV_push w
  | fb => exact fun x y => congrArg (pixelAt · x y) (s.push_fb w)
  | mem => exact fun a => congrArg (Memory.read · a) (s.push_mem w)
  | i => exact s.push_i w
  | pc => exact s.push_pc w
  | dt => exact s.push_dt w
  | st => exact s.push_st w
  | key => exact s.push_key w
  | redraw => exact s.push_redraw w
  | run => exact s.push_run w
  | errors => exact s.push_errors w
  | draws => exact s.push_draws w

/-! The jump. -/

/-- Settles O15: the jump is a completion at NNN zero-extended. -/
theorem jumpSetsPc : Obligations.JumpSetsPc := fun nnn =>
  ⟨decodeWord_encode (.jp nnn), fun s =>
    ⟨_, rfl, zext16_toNat nnn, rfl, complete_unchanged (zext16 nnn) s⟩⟩

/-! The call, on each side of its test for a full stack. -/

theorem State.stackFull_iff {s : State} : s.stackFull = true ↔ s.sp.val = 16 := by
  simp [State.stackFull, Fin.ext_iff]

theorem exec_call_of_lt {s : State} (h : s.sp.val < 16) (nnn : Addr12) :
    exec (.call nnn) s = complete (zext16 nnn) (s.push (s.pc + 2)) :=
  if_neg fun hfull => h.ne (State.stackFull_iff.1 hfull)

theorem exec_call_of_full {s : State} (h : s.sp.val = 16) (nnn : Addr12) :
    exec (.call nnn) s = raiseBy (.call nnn) .stackOverflow none s :=
  if_pos (State.stackFull_iff.2 h)

/-- Settles O16: below a full stack the call is a push and a completion at NNN; with a full stack it is
`raise` of StackOverflowError, which is a recoverable error. -/
theorem callPushesReturnAddress : Obligations.CallPushesReturnAddress := by
  intro nnn
  refine ⟨decodeWord_encode (.call nnn), fun s hlt => ?_, fun s hfull => ?_⟩
  · refine ⟨_, exec_call_of_lt hlt nnn, s.push_sp_val hlt, zext16_toNat nnn, rfl, ?_, ?_⟩
    · intro j hj
      simpa [eq_comm] using s.push_stack_get hlt j hj
    · exact (push_unchanged _ s).trans (complete_unchanged _ _)
  · exact ⟨_, exec_call_of_full hfull nnn, raise_tookRecoverable rfl _ s⟩

/-! The skips. -/

/-- A skip advances PC, modulo 2^16, by what its condition says (R125, R361). -/
theorem skipIf_next {c : Bool} {k : Nat} (hk : k = if c then 4 else 2) (s : State) :
    ∃ t, skipIf c s = .next t ∧ UnchangedExcept [.pc, .run] s t ∧ AdvancedBy k s t := by
  refine ⟨_, skipIf_eq c s, complete_unchanged _ s, ?_, rfl⟩
  cases c <;> simp [hk, BitVec.toNat_add]

/-- Settles O19: both are skips, on equal and on different. -/
theorem immediateSkipsCompare : Obligations.ImmediateSkipsCompare := by
  refine fun x nn =>
    ⟨decodeWord_encode (.seImm x nn), decodeWord_encode (.sneImm x nn), fun s => ⟨?_, ?_⟩⟩
  · exact skipIf_next (by simp [BitVec.toNat_inj]) s
  · exact skipIf_next (by simp [BitVec.toNat_inj]) s

end Sys2Proof.Machine
end

section
/-! Loads, sums, differences and the random byte (42_alu.md R171, R172, R173, R177, R178, R180, R190).
Each of them writes one register, or the flag and then one register (R170), and advances. What such an
instruction answers is said once; what is left of each is its value in exact integers. -/

namespace Sys2Proof.Machine

/-! Frames. -/

/-- A frame may name more fields than are written, in any order. -/
theorem UnchangedExcept.mono {fs gs : List Field} {s t : State} (h : UnchangedExcept fs s t)
    (hsub : ∀ f ∈ fs, f ∈ gs) : UnchangedExcept gs s t :=
  fun f hf => h f fun hfs => hf (hsub f hfs)

theorem setV_unchanged (r : Reg) (b : Byte) (s : State) : UnchangedExcept [.v] s (s.setV r b) := by
  intro f hf
  cases f with
  | v => exact absurd hf (by decide)
  | mem => exact fun _ => rfl
  | fb => exact fun _ _ => rfl
  | i | pc | stack | sp | dt | st | key | redraw | run | errors | draws => rfl

theorem setFlagged_unchanged (x : Reg) (flag result : Byte) (s : State) :
    UnchangedExcept [.v] s (s.setFlagged x flag result) :=
  ((setV_unchanged Reg.flag flag s).trans (setV_unchanged x result _)).mono (by decide)

theorem countDraw_unchanged (s : State) : UnchangedExcept [.draws] s s.countDraw := by
  intro f hf
  cases f with
  | draws => exact absurd hf (by decide)
  | v | mem => exact fun _ => rfl
  | fb => exact fun _ _ => rfl
  | i | pc | stack | sp | dt | st | key | redraw | run | errors => rfl

/-! The registers after a flag and a result (R170). -/

theorem readV_setFlagged_same (x : Reg) (flag result : Byte) (s : State) :
    (s.setFlagged x flag result).readV x = result := by
  rw [State.readV_setFlagged, if_pos rfl]

theorem readV_setFlagged_flag {x : Reg} (hx : x ≠ Reg.flag) (flag result : Byte) (s : State) :
    (s.setFlagged x flag result).readV Reg.flag = flag := by
  rw [State.readV_setFlagged, if_neg hx, if_pos rfl]

theorem readV_setFlagged_other {x r : Reg} (hx : x ≠ r) (hflag : Reg.flag ≠ r)
    (flag result : Byte) (s : State) :
    (s.setFlagged x flag result).readV r = s.readV r := by
  rw [State.readV_setFlagged, if_neg hx, if_neg hflag]

/-! What an instruction answers that writes registers and advances. -/

/-- The default completion advances PC by 2, modulo 2^16 (R37, R125). -/
theorem advance_advancedBy (s : State) :
    AdvancedBy 2 s ((s.setPc (s.pc + 2)).setRun .running) :=
  ⟨by simp [BitVec.toNat_add], rfl⟩

theorem advance_setV_next (x : Reg) (b : Byte) (s : State) :
    ∃ t, advance (s.setV x b) = .next t ∧ t.readV x = b ∧
      OnlyRegs [x] s t ∧ AdvancedBy 2 s t ∧ UnchangedExcept [.v, .pc, .run] s t := by
  refine ⟨_, advance_eq _, s.readV_setV_same x b, ?_, advance_advancedBy (s.setV x b), ?_⟩
  · intro r hr
    exact s.readV_setV_other (Ne.symm (List.ne_of_not_mem_cons hr)) b
  · exact (setV_unchanged x b s).trans (complete_unchanged _ _)

/-- VF ends as the flag where X is another register; where X = F the result stands (R170). -/
theorem advance_setFlagged_next (x : Reg) (flag result : Byte) (s : State) :
    ∃ t, advance (s.setFlagged x flag result) = .next t ∧ t.readV x = result ∧
      (x ≠ 0xF → t.readV 0xF = flag) ∧
      OnlyRegs [x, 0xF] s t ∧ AdvancedBy 2 s t ∧ UnchangedExcept [.v, .pc, .run] s t := by
  refine ⟨_, advance_eq _, readV_setFlagged_same x flag result s,
    fun hx => readV_setFlagged_flag hx .., ?_, advance_advancedBy (s.setFlagged x flag result), ?_⟩
  · intro r hr
    rw [List.mem_pair, not_or] at hr
    obtain ⟨hx, hflag⟩ := hr
    exact readV_setFlagged_other (Ne.symm hx) (Ne.symm hflag) ..
  · exact (setFlagged_unchanged x flag result s).trans (complete_unchanged _ _)

/-! The loads and the sum with an immediate. -/

/-- Settles O22: V[X] is written with NN. -/
theorem loadImmediateSetsRegister : Obligations.LoadImmediateSetsRegister := fun x nn =>
  ⟨decodeWord_encode (.ldImm x nn), fun s => advance_setV_next x nn s⟩

/-- Settles O23: V[X] is written with the truncated sum, and no other register is. -/
theorem addImmediateWrapsWithoutFlag : Obligations.AddImmediateWrapsWithoutFlag := by
  refine fun x nn => ⟨decodeWord_encode (.addImm x nn), fun s => ?_⟩
  obtain ⟨t, hexec, hx, hframe⟩ := advance_setV_next x (addTrunc (s.readV x) nn) s
  exact ⟨t, hexec, hx ▸ addTrunc_toNat _ _, hframe⟩

/-- Settles O24: V[X] is written with the old V[Y]. -/
theorem copyRegister : Obligations.CopyRegister := fun x y =>
  ⟨decodeWord_encode (.ldReg x y), fun s => advance_setV_next x (s.readV y) s⟩

/-! Sum and differences of two registers: the flags and the difference in exact integers. -/

theorem flagByte_toNat (c : Bool) : (flagByte c).toNat = if c then 1 else 0 := by
  cases c <;> rfl

theorem carryFlag_toNat (a b : Byte) :
    (carryFlag a b).toNat = if a.toNat + b.toNat > 255 then 1 else 0 := by
  simp [carryFlag, flagByte_toNat]

theorem noBorrowFlag_toNat (a b : Byte) :
    (noBorrowFlag a b).toNat = if a.toNat ≥ b.toNat then 1 else 0 := by
  simp [noBorrowFlag, flagByte_toNat]

/-- The difference modulo 256 (R185). -/
theorem subTrunc_toNat_mod (a b : Byte) :
    (subTrunc a b).toNat = (a.toNat + 256 - b.toNat) % 256 := by
  have ha := a.isLt
  rw [subTrunc_toNat]
  split <;> omega

/-- Settles O26: the flag is the carry and the result is the truncated sum, both of the old values. -/
theorem addSetsCarry : Obligations.AddSetsCarry := by
  refine fun x y => ⟨decodeWord_encode (.addReg x y), fun s => ?_⟩
  obtain ⟨t, hexec, hx, hflag, hframe⟩ := advance_setFlagged_next x
    (carryFlag (s.readV x) (s.readV y)) (addTrunc (s.readV x) (s.readV y)) s
  exact ⟨t, hexec, hx ▸ addTrunc_toNat _ _, fun hne => hflag hne ▸ carryFlag_toNat _ _, hframe⟩

/-- `8XY5` and `8XY7` differ only in which operand is `a` and which is `b`. -/
theorem advance_difference_next (x : Reg) (a b : Byte) (s : State) :
    ∃ t, advance (s.setFlagged x (noBorrowFlag a b) (subTrunc a b)) = .next t ∧
      (t.readV x).toNat = (a.toNat + 256 - b.toNat) % 256 ∧
      (x ≠ 0xF → (t.readV 0xF).toNat = if a.toNat ≥ b.toNat then 1 else 0) ∧
      OnlyRegs [x, 0xF] s t ∧ AdvancedBy 2 s t ∧ UnchangedExcept [.v, .pc, .run] s t := by
  obtain ⟨t, hexec, hx, hflag, hframe⟩ :=
    advance_setFlagged_next x (noBorrowFlag a b) (subTrunc a b) s
  exact ⟨t, hexec, hx ▸ subTrunc_toNat_mod a b, fun hne => hflag hne ▸ noBorrowFlag_toNat a b,
    hframe⟩

/-- Settles O27: one is the difference of V[X] and V[Y], the other that of V[Y] and V[X]. -/
theorem subtractionsSetNoBorrow : Obligations.SubtractionsSetNoBorrow := fun x y =>
  ⟨decodeWord_encode (.subReg x y), decodeWord_encode (.subn x y), fun s =>
    ⟨advance_difference_next x (s.readV x) (s.readV y) s,
      advance_difference_next x (s.readV y) (s.readV x) s⟩⟩

/-! The random byte. -/

/-- Settles O29: the draw is counted and its AND with NN is written to V[X]; nothing is used of the
value of the draw. -/
theorem randomIsMaskedDraw : Obligations.RandomIsMaskedDraw := by
  refine fun x nn => ⟨decodeWord_encode (.rnd x nn), fun s => ?_⟩
  obtain ⟨t, hexec, hx, honly, hpc, hframe⟩ :=
    advance_setV_next x (Config.drawRandom s.draws &&& nn) s.countDraw
  refine ⟨t, hexec, fun k _ => ?_, hframe .draws (by decide), honly, hpc, ?_⟩
  · rw [hx, BitVec.getLsbD_and]
  · exact ((countDraw_unchanged s).trans hframe).mono (by decide)

end Sys2Proof.Machine
end

section
/-! The index register, the decimal digits and the register load (43_index_memory.md R211, R214, R216).
What an update of I, of memory and of the register file leaves unchanged, and what a halting fault and an
access that fails answer, is said once; where an access fails is one argument for reads and writes. -/

namespace Sys2Proof.Machine

/-! Frames. -/

theorem setI_unchanged (w : Word) (s : State) : UnchangedExcept [.i] s (s.setI w) := by
  intro f hf
  cases f with
  | i => exact absurd hf (by decide)
  | v | mem => exact fun _ => rfl
  | fb => exact fun _ _ => rfl
  | pc | stack | sp | dt | st | key | redraw | run | errors | draws => rfl

theorem setMem_unchanged (m : Memory) (s : State) : UnchangedExcept [.mem] s (s.setMem m) := by
  intro f hf
  cases f with
  | mem => exact absurd hf (by decide)
  | v => exact fun _ => rfl
  | fb => exact fun _ _ => rfl
  | i | pc | stack | sp | dt | st | key | redraw | run | errors | draws => rfl

theorem setRegs_unchanged (v : Vector Byte 16) (s : State) :
    UnchangedExcept [.v] s (s.setRegs v) := by
  intro f hf
  cases f with
  | v => exact absurd hf (by decide)
  | mem => exact fun _ => rfl
  | fb => exact fun _ _ => rfl
  | i | pc | stack | sp | dt | st | key | redraw | run | errors | draws => rfl

/-! What a completing instruction answers that writes I, memory or the register file. -/

theorem advance_setI_next (w : Word) (s : State) :
    ∃ t, advance (s.setI w) = .next t ∧ t.i = w ∧ AdvancedBy 2 s t ∧
      UnchangedExcept [.i, .pc, .run] s t :=
  ⟨_, advance_eq _, rfl, advance_advancedBy (s.setI w),
    (setI_unchanged w s).trans (complete_unchanged _ _)⟩

theorem advance_setMem_next (m : Memory) (s : State) :
    ∃ t, advance (s.setMem m) = .next t ∧ t.mem = m ∧ AdvancedBy 2 s t ∧
      UnchangedExcept [.mem, .pc, .run] s t :=
  ⟨_, advance_eq _, rfl, advance_advancedBy (s.setMem m),
    (setMem_unchanged m s).trans (complete_unchanged _ _)⟩

theorem advance_setRegs_next (v : Vector Byte 16) (s : State) :
    ∃ t, advance (s.setRegs v) = .next t ∧ t.v = v ∧ AdvancedBy 2 s t ∧
      UnchangedExcept [.v, .pc, .run] s t :=
  ⟨_, advance_eq _, rfl, advance_advancedBy (s.setRegs v),
    (setRegs_unchanged v s).trans (complete_unchanged _ _)⟩

/-! Halting faults. -/

/-- A halting fault leaves PC as it is (R303). -/
theorem raise_tookHalting {k : ErrorKind} (hk : k.halting = true) (w : Option Word) (a : Nat)
    (s : State) : TookHalting k w a s (raise k w (some a) s) := by
  refine ⟨raise_errors .., by rw [raise_run, if_pos hk], fun f hf => ?_⟩
  by_cases hpc : f = .pc
  · subst hpc
    show (raise k w (some a) s).pc = s.pc
    rw [raise_pc, if_pos hk]
  · refine raise_unchanged k w (some a) s f ?_
    simpa [hpc] using hf

/-- An access whose first failing address raises a halting fault writes nothing (R64, R303). -/
theorem accessing_tookHalting {i : Instr} {check : Nat → Option AccessFault} {n a : Nat}
    {s : State} {k : ErrorKind} (h : firstFault check s.i.toNat n = some ⟨k, a⟩)
    (hk : k.halting = true) (d : State) :
    ∃ t, accessing i check n s d = .next t ∧ TookHalting k (some (encode i)) a s t :=
  ⟨_, accessing_fault h d, raise_tookHalting hk _ a s⟩

/-! Where an access fails. -/

theorem checkWrite_of_range {a : Nat} (h : 0xFFF < a) : checkWrite a = some ⟨.memoryRange, a⟩ :=
  if_pos h

theorem checkWrite_of_font {a : Nat} (h : a ≤ 0x04F) : checkWrite a = some ⟨.fontWrite, a⟩ := by
  have hrange : ¬ a > Config.lastAddr := by simp only [Config.lastAddr]; omega
  exact (if_neg hrange).trans (if_pos h)

/-- An access that passes 0xFFF fails first at 0x1000, or where it starts if that is above, when its
check allows everything from its start up to 0xFFF. -/
theorem firstFault_range {check : Nat → Option AccessFault} {a n : Nat} (hn : 0 < n)
    (hin : ∀ b, a ≤ b → b ≤ 0xFFF → check b = none)
    (hout : ∀ b, 0xFFF < b → check b = some ⟨.memoryRange, b⟩) (h : 0x1000 < a + n) :
    firstFault check a n = some ⟨.memoryRange, max a 0x1000⟩ := by
  have hfirst : a + (0x1000 - a) = max a 0x1000 := by omega
  refine firstFault_eq_some.2 ⟨0x1000 - a, by omega, ?_, fun j hj => ?_⟩
  · rw [hfirst]
    exact hout _ (by omega)
  · exact hin _ (by omega) (by omega)

theorem firstFault_read_range {a n : Nat} (hn : 0 < n) (h : 0x1000 < a + n) :
    firstFault checkRead a n = some ⟨.memoryRange, max a 0x1000⟩ :=
  firstFault_range hn (fun _ _ hb => checkRead_eq_none.2 hb)
    (fun _ hb => checkRead_eq_some.2 ⟨hb, rfl⟩) h

theorem firstFault_write_range {a n : Nat} (hn : 0 < n) (hfont : 0x050 ≤ a) (h : 0x1000 < a + n) :
    firstFault checkWrite a n = some ⟨.memoryRange, max a 0x1000⟩ :=
  firstFault_range hn (fun _ ha hb => checkWrite_eq_none.2 ⟨hfont.trans ha, hb⟩)
    (fun _ hb => checkWrite_of_range hb) h

theorem firstFault_write_font {a n : Nat} (hn : 0 < n) (h : a ≤ 0x04F) :
    firstFault checkWrite a n = some ⟨.fontWrite, a⟩ :=
  firstFault_eq_some.2 ⟨0, hn, checkWrite_of_font h, fun _ hj => absurd hj (Nat.not_lt_zero _)⟩

/-! Memory after several bytes are written, inside and outside their range. -/

theorem Memory.read_writeBytes_inside (m : Memory) (a : Nat) (bs : List Byte) {j : Nat}
    (h : j < bs.length) : (m.writeBytes a bs).read (a + j) = bs[j] := by
  rw [Memory.read_writeBytes, if_pos (by omega), Nat.add_sub_cancel_left,
    List.getD_eq_getElem _ _ h]

theorem Memory.read_writeBytes_outside (m : Memory) {a a' : Nat} {bs : List Byte}
    (h : a' < a ∨ a + bs.length ≤ a') : (m.writeBytes a bs).read a' = m.read a' := by
  rw [Memory.read_writeBytes, if_neg (by omega)]

/-! The index load. -/

/-- Settles O30: I is written with NNN zero-extended. -/
theorem loadIndexSetsI : Obligations.LoadIndexSetsI := by
  refine fun nnn => ⟨decodeWord_encode (.ldI nnn), fun s => ?_⟩
  obtain ⟨t, hexec, hi, hframe⟩ := advance_setI_next (zext16 nnn) s
  exact ⟨t, hexec, hi ▸ zext16_toNat nnn, hframe⟩

/-! The decimal digits. -/

theorem length_bcdDigits (a : Byte) : (bcdDigits a).length = 3 := rfl

/-- A digit fits in its byte (R214). -/
theorem bcdDigits_toNat (a : Byte) :
    (bcdDigits a).map BitVec.toNat = [a.toNat / 100, a.toNat / 10 % 10, a.toNat % 10] := by
  have ha := a.isLt
  simp only [bcdDigits, List.map_cons, List.map_nil, BitVec.toNat_ofNat,
    List.cons.injEq, and_true]
  omega

/-- The digit at `I + j` after FX33, from the list of the three. -/
theorem read_bcdDigits_toNat (m : Memory) (a : Nat) (b : Byte) {j : Nat} (h : j < 3) :
    ((m.writeBytes a (bcdDigits b)).read (a + j)).toNat =
      [b.toNat / 100, b.toNat / 10 % 10, b.toNat % 10][j] := by
  rw [Memory.read_writeBytes_inside m a (bcdDigits b) h]
  exact (List.getElem_map _).symm.trans (List.getElem_of_eq (bcdDigits_toNat b) h)

/-- Settles O32: where all three addresses may be written the digits are; else the first failing one is I
in the font area, and the larger of I and 0x1000 above it. -/
theorem bcdStoresDecimalDigits : Obligations.BcdStoresDecimalDigits := by
  refine fun x => ⟨decodeWord_encode (.ldB x), fun s hfont hrange => ?_, fun s hfont => ?_,
    fun s hrange => ?_⟩
  · have hok : firstFault checkWrite s.i.toNat 3 = none :=
      firstFault_write_eq_none.2 (.inr ⟨hfont, by omega⟩)
    obtain ⟨t, hexec, hmem, hframe⟩ :=
      advance_setMem_next (s.mem.writeBytes s.i.toNat (bcdDigits (s.readV x))) s
    refine ⟨t, (accessing_ok hok _).trans hexec, ?_, ?_, ?_, fun a ha => ?_, hframe⟩ <;> rw [hmem]
    · exact read_bcdDigits_toNat _ _ _ (j := 0) (by decide)
    · exact read_bcdDigits_toNat _ _ _ (j := 1) (by decide)
    · exact read_bcdDigits_toNat _ _ _ (j := 2) (by decide)
    · exact Memory.read_writeBytes_outside _ (by rw [length_bcdDigits]; omega)
  · exact accessing_tookHalting (firstFault_write_font (by decide) hfont) rfl _
  · exact accessing_tookHalting
      (firstFault_write_range (by decide) (by omega) (by omega)) rfl _

/-! The register load. -/

/-- What FX65 leaves in each register (R216). -/
theorem getElem_loadRegs_readBytes (v : Vector Byte 16) (m : Memory) (a : Nat) (x k : Reg) :
    (loadRegs v 0 (m.readBytes a (regCount x)))[k.toNat] =
      if k.toNat ≤ x.toNat then m.read (a + k.toNat) else v[k.toNat] := by
  rw [getElem_loadRegs _ _ _ _ k.isLt, Memory.length_readBytes, regCount]
  by_cases hk : k.toNat ≤ x.toNat
  · rw [if_pos hk, if_pos (by omega), Nat.sub_zero,
      List.getD_eq_getElem _ _ (by rw [Memory.length_readBytes]; omega), Memory.getElem_readBytes]
  · rw [if_neg hk, if_neg (by omega)]

/-- Settles O34: where the last address is in memory the registers are loaded; else the first failing one
is the larger of I and 0x1000, the font area being readable. -/
theorem loadReadsRegisters : Obligations.LoadReadsRegisters := by
  refine fun x => ⟨decodeWord_encode (.load x), fun s hrange => ?_, fun s hrange => ?_⟩
  · have hok : firstFault checkRead s.i.toNat (regCount x) = none :=
      firstFault_read_eq_none.2 (.inr (by rw [regCount]; omega))
    obtain ⟨t, hexec, hv, hframe⟩ :=
      advance_setRegs_next (loadRegs s.v 0 (s.mem.readBytes s.i.toNat (regCount x))) s
    refine ⟨t, (accessing_ok hok _).trans hexec, fun k => ?_, hframe⟩
    simp only [State.readV, hv]
    exact getElem_loadRegs_readBytes s.v s.mem s.i.toNat x k
  · have hfault : firstFault checkRead s.i.toNat (regCount x) = some ⟨.memoryRange, _⟩ :=
      firstFault_read_range (Nat.succ_pos _) (by rw [regCount]; omega)
    exact accessing_tookHalting hfault rfl _

end Sys2Proof.Machine
end

section
/-! The sprite draw (44_display.md R241 to R245). A draw is a sequence of one-pixel draws; one relation
says which pixels a draw flips and when it collides, and two draws in a row that flip different pixels
are one draw of both. Within a sprite no pixel is met twice: a row is 8 columns of 64, and a sprite is
at most 15 rows of 32. -/

namespace Sys2Proof.Machine

/-! Draws and the pixels they flip. -/

/-- From `c` to `d` exactly the pixels of `P` are flipped, and where one of them was on it is a
collision (R241, R243). -/
structure Flips (P : Fin 64 → Fin 32 → Prop) (c d : Canvas) : Prop where
  flipped : ∀ {px py}, P px py → pixelAt d.fb px py = !pixelAt c.fb px py
  kept : ∀ {px py}, ¬ P px py → pixelAt d.fb px py = pixelAt c.fb px py
  collision : d.collision = true ↔
    c.collision = true ∨ ∃ px py, P px py ∧ pixelAt c.fb px py = true

theorem Flips.congr {P Q : Fin 64 → Fin 32 → Prop} {c d : Canvas} (h : Flips P c d)
    (hPQ : ∀ px py, P px py ↔ Q px py) : Flips Q c d :=
  (funext₂ fun px py => propext (hPQ px py)) ▸ h

theorem Flips.of_empty {P : Fin 64 → Fin 32 → Prop} (hP : ∀ px py, ¬ P px py) (c : Canvas) :
    Flips P c c where
  flipped h := absurd h (hP _ _)
  kept _ := rfl
  collision := by simp [hP]

/-- Where the pixels of two draws in a row are different ones, none is flipped back, and the second draw
finds its pixels as they were before the first. -/
theorem Flips.trans {P Q : Fin 64 → Fin 32 → Prop} {c d e : Canvas} (hcd : Flips P c d)
    (hde : Flips Q d e) (hdisj : ∀ px py, P px py → ¬ Q px py) :
    Flips (fun px py => P px py ∨ Q px py) c e where
  flipped := by
    rintro px py (hP | hQ)
    · rw [hde.kept (hdisj px py hP), hcd.flipped hP]
    · rw [hde.flipped hQ, hcd.kept fun hP => hdisj px py hP hQ]
  kept h := by
    obtain ⟨hP, hQ⟩ := not_or.1 h
    rw [hde.kept hQ, hcd.kept hP]
  collision := by
    have hsame : ∀ px py, Q px py ∧ pixelAt d.fb px py = true ↔
        Q px py ∧ pixelAt c.fb px py = true := fun px py =>
      and_congr_right fun hQ => by rw [hcd.kept fun hP => hdisj px py hP hQ]
    simp only [hde.collision, hcd.collision, hsame, or_and_right, exists_or, or_assoc]

theorem drawPixel_flips (bit : Bool) (x : Fin 64) (y : Fin 32) (c : Canvas) :
    Flips (fun px py => bit = true ∧ px = x ∧ py = y) c (drawPixel bit x y c) where
  flipped := by
    rintro px py ⟨rfl, rfl, rfl⟩
    rw [pixelAt_drawPixel, if_pos ⟨rfl, rfl⟩, Bool.xor_true]
  kept {px py} h := by
    rw [pixelAt_drawPixel]
    split
    · next heq =>
      obtain ⟨rfl, rfl⟩ := heq
      have hbit : bit = false := Bool.eq_false_iff.2 fun hb => h ⟨hb, rfl, rfl⟩
      rw [hbit, Bool.xor_false]
    · rfl
  collision := by simp [collision_drawPixel]

/-! One byte of a sprite. -/

@[simp] theorem wrapX_val (a : Nat) : (wrapX a).val = a % 64 := rfl

@[simp] theorem wrapY_val (a : Nat) : (wrapY a).val = a % 32 := rfl

/-- A 1 bit of the first `n` columns of byte `b`, drawn at (`x0`, `y`), falls on pixel (`px`, `py`). -/
def rowCovers (b : Byte) (x0 y n : Nat) (px : Fin 64) (py : Fin 32) : Prop :=
  ∃ col, col < n ∧ spriteBit b col = true ∧ px = wrapX (x0 + col) ∧ py = wrapY y

theorem rowCovers_succ {b : Byte} {x0 y n : Nat} {px : Fin 64} {py : Fin 32} :
    rowCovers b x0 y (n + 1) px py ↔ rowCovers b x0 y n px py ∨
      (spriteBit b n = true ∧ px = wrapX (x0 + n) ∧ py = wrapY y) := by
  simp only [rowCovers, Nat.lt_succ_iff_lt_or_eq, or_and_right, exists_or, exists_eq_left]

/-- The first `n` columns of a row: another column within 64 is another pixel. -/
theorem foldl_drawPixel_flips (b : Byte) (x0 y : Nat) (c : Canvas) {n : Nat} (hn : n ≤ 64) :
    Flips (rowCovers b x0 y n) c ((List.range n).foldl
      (fun c col => drawPixel (spriteBit b col) (wrapX (x0 + col)) (wrapY y) c) c) := by
  induction n with
  | zero => exact .of_empty (by simp [rowCovers]) c
  | succ n ih =>
    rw [List.range_succ, List.foldl_append]
    refine ((ih (by omega)).trans (drawPixel_flips ..) ?_).congr fun _ _ => rowCovers_succ.symm
    rintro px py ⟨col, hcol, -, rfl, -⟩ ⟨-, hx, -⟩
    have hmod := congrArg Fin.val hx
    simp only [wrapX_val] at hmod
    omega

theorem drawRow_flips (b : Byte) (x0 y : Nat) (c : Canvas) :
    Flips (rowCovers b x0 y 8) c (drawRow b x0 y c) :=
  foldl_drawPixel_flips b x0 y c (by decide)

/-! The bytes of a sprite. -/

/-- A 1 bit of the bytes `bs`, drawn at (`x0`, `y`), falls on pixel (`px`, `py`). -/
def rowsCover (x0 y : Nat) (bs : List Byte) (px : Fin 64) (py : Fin 32) : Prop :=
  ∃ row b, bs[row]? = some b ∧ rowCovers b x0 (y + row) 8 px py

theorem rowsCover_cons {x0 y : Nat} {b : Byte} {bs : List Byte} {px : Fin 64} {py : Fin 32} :
    rowsCover x0 y (b :: bs) px py ↔
      rowCovers b x0 y 8 px py ∨ rowsCover x0 (y + 1) bs px py := by
  constructor
  · rintro ⟨row, b', hb, hcov⟩
    cases row with
    | zero =>
      cases hb
      exact .inl hcov
    | succ row => exact .inr ⟨row, b', hb, by rwa [Nat.add_right_comm]⟩
  · rintro (hcov | ⟨row, b', hb, hcov⟩)
    · exact ⟨0, b, rfl, hcov⟩
    · exact ⟨row + 1, b', hb, by rwa [Nat.add_right_comm] at hcov⟩

/-- Another row within 32 is another pixel. -/
theorem drawRows_flips (x0 y : Nat) {bs : List Byte} (hbs : bs.length ≤ 32) (c : Canvas) :
    Flips (rowsCover x0 y bs) c (drawRows x0 y bs c) := by
  induction bs generalizing y c with
  | nil => exact .of_empty (by simp [rowsCover]) c
  | cons b bs ih =>
    rw [List.length_cons] at hbs
    refine ((drawRow_flips b x0 y c).trans (ih (y + 1) (by omega) _) ?_).congr
      fun _ _ => rowsCover_cons.symm
    rintro px py ⟨_, -, -, -, rfl⟩ ⟨row, _, hrow, _, -, -, -, hy⟩
    have hlt : row < bs.length := (List.getElem?_eq_some_iff.1 hrow).1
    have hmod := congrArg Fin.val hy
    simp only [wrapY_val] at hmod
    omega

/-! The sprite at I. -/

theorem rowsCover_readBytes {s : State} {x0 y0 n : Nat} {px : Fin 64} {py : Fin 32} :
    rowsCover x0 y0 (s.mem.readBytes s.i.toNat n) px py ↔ spriteCovers s x0 y0 n px py := by
  simp only [rowsCover, rowCovers, spriteCovers, spriteBit, List.getElem?_eq_some_iff,
    Memory.length_readBytes, Memory.getElem_readBytes, Fin.ext_iff, wrapX_val, wrapY_val]
  constructor
  · rintro ⟨row, _, ⟨hrow, rfl⟩, col, hcol⟩
    exact ⟨row, col, hrow, hcol⟩
  · rintro ⟨row, col, hrow, hcol⟩
    exact ⟨row, _, ⟨hrow, rfl⟩, col, hcol⟩

theorem drawSprite_flips (s : State) (x0 y0 : Byte) (n : Nibble) :
    Flips (spriteCovers s x0.toNat y0.toNat n.toNat) ⟨s.fb, false⟩
      (drawSprite s.fb x0 y0 (s.mem.readBytes s.i.toNat n.toNat)) := by
  have hlen : (s.mem.readBytes s.i.toNat n.toNat).length ≤ 32 := by
    rw [Memory.length_readBytes]
    omega
  exact (drawRows_flips _ _ hlen _).congr fun _ _ => rowsCover_readBytes

/-! The state a draw ends in. -/

theorem setScreen_unchanged (f : Framebuffer) (s : State) :
    UnchangedExcept [.fb, .redraw] s (s.setScreen f) := by
  intro g hg
  cases g with
  | fb | redraw => exact absurd hg (by decide)
  | v | mem => exact fun _ => rfl
  | i | pc | stack | sp | dt | st | key | run | errors | draws => rfl

/-- A draw writes the screen, REDRAW and VF, and advances (R241, R243). -/
theorem advance_drawn_next (x y : Reg) (n : Nibble) (s : State) :
    ∃ t, advance (drawn x y n s) = .next t ∧
      (∃ d, Flips (spriteCovers s (s.readV x).toNat (s.readV y).toNat n.toNat) ⟨s.fb, false⟩ d ∧
        t.fb = d.fb ∧ t.readV 0xF = flagByte d.collision) ∧
      t.redraw = true ∧ OnlyRegs [0xF] s t ∧ AdvancedBy 2 s t ∧
      UnchangedExcept [.fb, .redraw, .v, .pc, .run] s t := by
  refine ⟨_, advance_eq _, ⟨_, drawSprite_flips s _ _ n, rfl, State.readV_setV_same _ _ _⟩, rfl,
    fun r hr => ?_, advance_advancedBy (drawn x y n s), ?_⟩
  · exact State.readV_setV_other _ (Ne.symm (List.ne_of_not_mem_cons hr)) _
  · exact ((setScreen_unchanged _ s).trans (setV_unchanged _ _ _)).trans (complete_unchanged _ _)

/-- Settles O39: where every byte of the sprite is in memory the draw flips the pixels of its 1 bits;
else the first failing address is the larger of I and 0x1000. -/
theorem drawFlipsSpritePixels : Obligations.DrawFlipsSpritePixels := by
  refine fun x y n => ⟨decodeWord_encode (.drw x y n), fun s hrange => ?_, fun s hn hrange => ?_⟩
  · have hok : firstFault checkRead s.i.toNat n.toNat = none :=
      firstFault_read_eq_none.2 (hrange.imp_left (congrArg BitVec.toNat))
    obtain ⟨t, hexec, ⟨d, hflips, hfb, hflag⟩, hframe⟩ := advance_drawn_next x y n s
    have hcollision := hflips.collision
    simp only [Bool.false_eq_true, false_or] at hcollision
    refine ⟨t, (accessing_ok hok _).trans hexec, fun px py => ?_, fun px py => ?_, fun hon => ?_,
      fun hoff => ?_, hframe⟩
    · exact hfb ▸ hflips.flipped
    · exact hfb ▸ hflips.kept
    · rw [hflag, hcollision.2 hon]
      rfl
    · have hnone : d.collision = false := Bool.eq_false_iff.2 fun hd => by
        obtain ⟨px, py, hcov, hon⟩ := hcollision.1 hd
        exact Bool.false_ne_true ((hoff px py hcov).symm.trans hon)
      rw [hflag, hnone]
      rfl
  · have hpos : 0 < n.toNat := by bv_omega
    exact accessing_tookHalting (firstFault_read_range hpos hrange) rfl _

end Sys2Proof.Machine
end

section
/-! The key queries (45_input.md R260 to R262). On each side of its test of V[X] a query is a skip or a
halting fault; EX9E and EXA1 differ in the key state they skip on. -/

namespace Sys2Proof.Machine

theorem isKey_iff {k : Byte} : isKey k = true ↔ k.toNat < 16 := by
  simp [isKey, Nat.lt_succ_iff]

/-- A query of a key skips where the key is in the wanted state (R260, R261). -/
theorem keyQuery_next (i : Instr) {x : Reg} (wanted : Bool) {s : State} {k n : Nat} (hk : k < 16)
    (hx : (s.readV x).toNat = k) (hn : n = if s.key[k] == wanted then 4 else 2) :
    ∃ t, keyQuery i x wanted s = .next t ∧ UnchangedExcept [.pc, .run] s t ∧
      AdvancedBy n s t := by
  subst hx
  rw [keyQuery, if_pos (isKey_iff.2 hk), keyPressed_eq hk]
  exact skipIf_next hn s

/-- A query of a number that names no key is a halting fault (R262; D7). -/
theorem keyQuery_tookHalting (i : Instr) {x : Reg} (wanted : Bool) {s : State}
    (h : 0x0F < (s.readV x).toNat) :
    ∃ t, keyQuery i x wanted s = .next t ∧
      TookHalting .keyIndex (some (encode i)) (s.readV x).toNat s t := by
  rw [keyQuery, if_neg fun hkey => Nat.not_lt.2 h (isKey_iff.1 hkey)]
  exact ⟨_, rfl, raise_tookHalting rfl _ _ s⟩

/-- Settles O42: both are key queries, on pressed and on released. -/
theorem keyQueriesSkip : Obligations.KeyQueriesSkip := by
  refine fun x => ⟨decodeWord_encode (.skp x), decodeWord_encode (.sknp x),
    fun s k hk hx => ⟨?_, ?_⟩, fun s h => ⟨?_, ?_⟩⟩
  · exact keyQuery_next (.skp x) true hk hx (by simp)
  · exact keyQuery_next (.sknp x) false hk hx (by cases s.key[k] <;> rfl)
  · exact keyQuery_tookHalting (.skp x) true h
  · exact keyQuery_tookHalting (.sknp x) false h

end Sys2Proof.Machine
end

section
/-! The timers (46_timers.md R280 to R282). What an update of a timer leaves unchanged and what an
instruction answers that writes one timer is said once; what ticks do to a timer is what counting down
does to its byte, the two timers being independent. -/

namespace Sys2Proof.Machine

/-! Frames. -/

theorem setDT_unchanged (b : Byte) (s : State) : UnchangedExcept [.dt] s (s.setDT b) := by
  intro f hf
  cases f with
  | dt => exact absurd hf (by decide)
  | v | mem => exact fun _ => rfl
  | fb => exact fun _ _ => rfl
  | i | pc | stack | sp | st | key | redraw | run | errors | draws => rfl

theorem setST_unchanged (b : Byte) (s : State) : UnchangedExcept [.st] s (s.setST b) := by
  intro f hf
  cases f with
  | st => exact absurd hf (by decide)
  | v | mem => exact fun _ => rfl
  | fb => exact fun _ _ => rfl
  | i | pc | stack | sp | dt | key | redraw | run | errors | draws => rfl

/-! What a completing instruction answers that writes a timer. -/

theorem advance_setDT_next (b : Byte) (s : State) :
    ∃ t, advance (s.setDT b) = .next t ∧ t.dt = b ∧ AdvancedBy 2 s t ∧
      UnchangedExcept [.dt, .pc, .run] s t :=
  ⟨_, advance_eq _, rfl, advance_advancedBy (s.setDT b),
    (setDT_unchanged b s).trans (complete_unchanged _ _)⟩

theorem advance_setST_next (b : Byte) (s : State) :
    ∃ t, advance (s.setST b) = .next t ∧ t.st = b ∧ AdvancedBy 2 s t ∧
      UnchangedExcept [.st, .pc, .run] s t :=
  ⟨_, advance_eq _, rfl, advance_advancedBy (s.setST b),
    (setST_unchanged b s).trans (complete_unchanged _ _)⟩

/-! Ticks. -/

/-- One tick takes 1, floored at 0 (R286, R289). -/
theorem countDown_toNat (b : Byte) : (countDown b).toNat = b.toNat - 1 := by
  unfold countDown
  split
  · next h => simp [h]
  · bv_omega

theorem iterate_countDown_toNat (k : Nat) (b : Byte) : (countDown^[k] b).toNat = b.toNat - k := by
  induction k with
  | zero => rfl
  | succ k ih => rw [Function.iterate_succ_apply', countDown_toNat, ih, Nat.sub_sub]

theorem iterate_tickTimers_dt (k : Nat) (s : State) :
    (tickTimers^[k] s).dt = countDown^[k] s.dt :=
  Function.Semiconj.iterate_right (f := State.dt) (fun _ => rfl) k s

theorem iterate_tickTimers_st (k : Nat) (s : State) :
    (tickTimers^[k] s).st = countDown^[k] s.st :=
  Function.Semiconj.iterate_right (f := State.st) (fun _ => rfl) k s

/-- A timer at 0 stays there (R289). -/
theorem dt_iterate_tickTimers_of_zero {s : State} (h : s.dt.toNat = 0) (k : Nat) :
    (tickTimers^[k] s).dt = 0 := by
  apply BitVec.eq_of_toNat_eq
  rw [iterate_tickTimers_dt, iterate_countDown_toNat, h, Nat.zero_sub]
  rfl

/-- The sound lasts as many ticks as ST counts (R282, R288). -/
theorem soundActive_iterate_tickTimers (k : Nat) (s : State) :
    soundActive (tickTimers^[k] s) = decide (k < s.st.toNat) := by
  simp only [soundActive, iterate_tickTimers_st, iterate_countDown_toNat, gt_iff_lt,
    Nat.sub_pos_iff_lt]

/-! The instructions. -/

/-- Settles O45: V[X] is written with DT, and no timer is. -/
theorem readDelayTimer : Obligations.ReadDelayTimer := fun x =>
  ⟨decodeWord_encode (.ldFromDT x), fun s => advance_setV_next x s.dt s⟩

/-- Settles O46: DT and ST are written with V[X]; from there on the ticks are those of any state. -/
theorem setTimers : Obligations.SetTimers := by
  refine fun x =>
    ⟨decodeWord_encode (.ldDT x), decodeWord_encode (.ldST x), fun s => ⟨?_, ?_⟩⟩
  · obtain ⟨t, hexec, hdt, hpc, hframe⟩ := advance_setDT_next (s.readV x) s
    exact ⟨t, hexec, hdt, hpc, hframe, fun hx => dt_iterate_tickTimers_of_zero (hdt ▸ hx)⟩
  · obtain ⟨t, hexec, hst, hpc, hframe⟩ := advance_setST_next (s.readV x) s
    exact ⟨t, hexec, hst, hpc, hframe, fun k => hst ▸ soundActive_iterate_tickTimers k t⟩

end Sys2Proof.Machine
end

section
/-! What every instruction leaves unchanged (10_state.md R33). A completion writes PC and RUN besides what
the instruction's updates write, and an error writes the log, PC and RUN; each instruction ends in one of
these, or awaits a key. -/

namespace Sys2Proof.Machine

/-! Frames. -/

theorem UnchangedExcept.refl (fs : List Field) (s : State) : UnchangedExcept fs s s := by
  intro f _
  cases f with
  | v | mem => exact fun _ => rfl
  | fb => exact fun _ _ => rfl
  | i | pc | stack | sp | dt | st | key | redraw | run | errors | draws => rfl

theorem pop_unchanged (s : State) : UnchangedExcept [.sp] s s.pop := by
  intro f hf
  cases f with
  | sp => exact absurd hf (by decide)
  | v | mem => exact fun _ => rfl
  | fb => exact fun _ _ => rfl
  | i | pc | stack | dt | st | key | redraw | run | errors | draws => rfl

theorem setRun_unchanged (r : RunState) (s : State) : UnchangedExcept [.run] s (s.setRun r) := by
  intro f hf
  cases f with
  | run => exact absurd hf (by decide)
  | v | mem => exact fun _ => rfl
  | fb => exact fun _ _ => rfl
  | i | pc | stack | sp | dt | st | key | redraw | errors | draws => rfl

/-- A draw writes the screen, REDRAW and VF (R241, R243). -/
theorem drawn_unchanged (x y : Reg) (n : Nibble) (s : State) :
    UnchangedExcept [.fb, .redraw, .v] s (drawn x y n s) :=
  (setScreen_unchanged _ s).trans (setV_unchanged _ _ _)

/-! Answers. -/

/-- Every next state the step answers leaves every field but those listed as it is in `s`. -/
def AnswersUnchanged (fs : List Field) (s : State) (r : Step) : Prop :=
  ∀ t, r = .next t → UnchangedExcept fs s t

theorem next_answersUnchanged {fs : List Field} {s d : State} (h : UnchangedExcept fs s d) :
    AnswersUnchanged fs s (.next d) := by
  rintro _ ⟨⟩
  exact h

theorem AnswersUnchanged.mono {fs gs : List Field} {s : State} {r : Step}
    (h : AnswersUnchanged fs s r) (hsub : ∀ f ∈ fs, f ∈ gs) : AnswersUnchanged gs s r :=
  fun t ht => (h t ht).mono hsub

theorem complete_answersUnchanged {fs : List Field} {s d : State} (h : UnchangedExcept fs s d)
    (w : Word) : AnswersUnchanged (fs ++ [.pc, .run]) s (complete w d) :=
  next_answersUnchanged (h.trans (complete_unchanged w d))

/-- A completion of an instruction that can also raise an error. -/
theorem complete_answersUnchanged_orError {fs : List Field} {s d : State}
    (h : UnchangedExcept fs s d) (w : Word) :
    AnswersUnchanged (fs ++ [.pc, .run, .errors]) s (complete w d) :=
  (complete_answersUnchanged h w).mono fun f hf => by
    rw [List.mem_append] at hf ⊢
    exact hf.imp_right fun h => List.mem_append_left [.errors] h

theorem raiseBy_answersUnchanged (fs : List Field) (i : Instr) (k : ErrorKind)
    (info : Option Nat) (s : State) :
    AnswersUnchanged (fs ++ [.pc, .run, .errors]) s (raiseBy i k info s) :=
  (next_answersUnchanged (raise_unchanged k _ info s)).mono fun f hf =>
    List.mem_append_right fs (by revert f; decide)

theorem accessing_answersUnchanged {fs : List Field} {s d : State} (h : UnchangedExcept fs s d)
    (i : Instr) (check : Nat → Option AccessFault) (n : Nat) :
    AnswersUnchanged (fs ++ [.pc, .run, .errors]) s (accessing i check n s d) := by
  rcases accessing_cases i check n s d with ⟨-, e⟩ | ⟨f, -, e⟩ <;> rw [e]
  · exact complete_answersUnchanged_orError h _
  · exact raiseBy_answersUnchanged fs _ _ _ _

theorem keyQuery_answersUnchanged (i : Instr) (x : Reg) (wanted : Bool) (s : State) :
    AnswersUnchanged [.pc, .run, .errors] s (keyQuery i x wanted s) := by
  unfold keyQuery
  split
  · exact complete_answersUnchanged_orError (.refl [] s) _
  · exact raiseBy_answersUnchanged [] _ _ _ _

/-! The instructions. -/

theorem execRet_answersUnchanged (s : State) :
    AnswersUnchanged [.sp, .pc, .run, .errors] s (execRet s) := by
  unfold execRet
  split
  · exact raiseBy_answersUnchanged [.sp] _ _ _ _
  · exact complete_answersUnchanged_orError (pop_unchanged s) _

theorem execCall_answersUnchanged (nnn : Addr12) (s : State) :
    AnswersUnchanged [.stack, .sp, .pc, .run, .errors] s (execCall nnn s) := by
  unfold execCall
  split
  · exact raiseBy_answersUnchanged [.stack, .sp] _ _ _ _
  · exact complete_answersUnchanged_orError (push_unchanged _ s) _

theorem execLdKey_answersUnchanged (x : Reg) (s : State) :
    AnswersUnchanged [.v, .pc, .run] s (execLdKey x s) := by
  unfold execLdKey
  split
  · exact complete_answersUnchanged (setV_unchanged x _ s) _
  · exact (next_answersUnchanged (setRun_unchanged _ s)).mono (by decide)

theorem execRnd_answersUnchanged (x : Reg) (nn : Byte) (s : State) :
    AnswersUnchanged [.v, .draws, .pc, .run] s (execRnd x nn s) :=
  (complete_answersUnchanged ((countDraw_unchanged s).trans (setV_unchanged x _ _)) _).mono
    (by decide)

/-- No instruction writes a field outside its row of the table of R33. -/
theorem exec_answersUnchanged (i : Instr) (s : State) :
    AnswersUnchanged (mayChange i) s (exec i s) := by
  cases i
  case cls => exact complete_answersUnchanged (setScreen_unchanged _ s) _
  case ret => exact execRet_answersUnchanged s
  case call nnn => exact execCall_answersUnchanged nnn s
  case jp | jpV0 | seImm | sneImm | seReg | sneReg =>
    exact complete_answersUnchanged (.refl [] s) _
  case skp x => exact keyQuery_answersUnchanged (.skp x) x true s
  case sknp x => exact keyQuery_answersUnchanged (.sknp x) x false s
  case ldImm | addImm | ldReg | orReg | andReg | xorReg | ldFromDT =>
    exact complete_answersUnchanged (setV_unchanged _ _ s) _
  case addReg | subReg | shr | subn | shl =>
    exact complete_answersUnchanged (setFlagged_unchanged _ _ _ s) _
  case ldKey x => exact execLdKey_answersUnchanged x s
  case rnd x nn => exact execRnd_answersUnchanged x nn s
  case ldI | addI | ldF => exact complete_answersUnchanged (setI_unchanged _ s) _
  case ldB | store => exact accessing_answersUnchanged (setMem_unchanged _ s) _ _ _
  case load => exact accessing_answersUnchanged (setRegs_unchanged _ s) _ _ _
  case drw x y n => exact accessing_answersUnchanged (drawn_unchanged x y n s) _ _ _
  case ldDT => exact complete_answersUnchanged (setDT_unchanged _ s) _
  case ldST => exact complete_answersUnchanged (setST_unchanged _ s) _

end Sys2Proof.Machine
end

section
/-! The host's key input (60_exceptions.md R321): what setKey does on each side of its test, and that KEY
is written by nothing else but reset. -/

namespace Sys2Proof.Machine

/-! setKey. -/

theorem setKey_of_neg {key : Int} (h : key < 0) (pressed : Bool) (s : State) :
    setKey key pressed s = s :=
  if_neg h.not_ge

theorem setKey_of_nonneg {key : Int} (h : 0 ≤ key) (pressed : Bool) (s : State) :
    setKey key pressed s = { s with key := s.key.setIfInBounds key.toNat pressed } :=
  if_pos h

theorem setKey_of_gt {key : Int} (h : 15 < key) (pressed : Bool) (s : State) :
    setKey key pressed s = s := by
  rw [setKey_of_nonneg (by omega), Vector.setIfInBounds_eq_of_size_le (by omega)]

theorem getElem_setKey (key : Int) (pressed : Bool) (s : State) {k : Nat} (hk : k < 16) :
    (setKey key pressed s).key[k] = if key = (k : Int) then pressed else s.key[k] := by
  rcases lt_or_ge key 0 with h | h
  · rw [if_neg (by omega), setKey_of_neg h]
  · have hkey : key.toNat = k ↔ key = (k : Int) := by omega
    simp only [setKey_of_nonneg h, Vector.getElem_setIfInBounds, hkey]

theorem setKey_unchanged (key : Int) (pressed : Bool) (s : State) :
    UnchangedExcept [.key] s (setKey key pressed s) := by
  rcases lt_or_ge key 0 with h | h
  · rw [setKey_of_neg h]
    exact .refl [.key] s
  · rw [setKey_of_nonneg h]
    intro f hf
    cases f with
    | key => exact absurd hf (by decide)
    | v | mem => exact fun _ => rfl
    | fb => exact fun _ _ => rfl
    | i | pc | stack | sp | dt | st | redraw | run | errors | draws => rfl

/-! The other operations. -/

theorem key_notMem_mayChange (i : Instr) : Field.key ∉ mayChange i := by
  unfold mayChange
  split <;> decide

theorem key_of_step {s t : State} (h : step s = .next t) : t.key = s.key := by
  rcases step_cases s with ⟨-, e⟩ | ⟨-, f, -, e⟩ | ⟨-, w, _, -, -, e⟩ | ⟨-, _, i, -, -, e⟩ <;>
    rw [e] at h
  · cases h
    rfl
  · cases h
    exact raise_unchanged _ _ _ s .key (by decide)
  · cases h
    exact raise_unchanged _ _ _ s .key (by decide)
  · exact exec_answersUnchanged i s t h .key (key_notMem_mayChange i)

theorem loadProgram_unchanged (bytes : List Byte) (s : State) :
    UnchangedExcept [.mem] s (loadProgram bytes s).1 := by
  unfold loadProgram
  split
  · exact setMem_unchanged _ s
  · exact .refl _ s

theorem HostOp.key_of_apply {op : HostOp} {s t : State} (h : op.apply s = .next t)
    (hset : ∀ k p, op ≠ .setKey k p) (hreset : ∀ f, op ≠ .reset f) : t.key = s.key := by
  cases op with
  | reset font => exact absurd rfl (hreset font)
  | setKey key pressed => exact absurd rfl (hset key pressed)
  | step => exact key_of_step h
  | loadProgram bytes =>
    cases h
    exact loadProgram_unchanged bytes s .key (by decide)
  | tickTimers | getPixel | consumeRedrawFlag | soundActive | errors =>
    cases h
    rfl

/-- Settles O48: setKey is an update of one key within the bounds of KEY, and no instruction has KEY among
the fields it may write. -/
theorem setKeyWritesOneKey : Obligations.SetKeyWritesOneKey :=
  ⟨fun key pressed s => ⟨fun _ hk => getElem_setKey key pressed s hk,
    fun h => h.elim (setKey_of_neg · pressed s) (setKey_of_gt · pressed s),
    setKey_unchanged key pressed s⟩,
  fun _ _ _ => HostOp.key_of_apply⟩

end Sys2Proof.Machine
end

section
/-! What the host reads of the display and the sound (60_exceptions.md R322 to R324). -/

namespace Sys2Proof.Machine

theorem consumeRedrawFlag_unchanged (s : State) :
    UnchangedExcept [.redraw] s (consumeRedrawFlag s).2 := by
  intro f hf
  cases f with
  | redraw => exact absurd hf (by decide)
  | v | mem => exact fun _ => rfl
  | fb => exact fun _ _ => rfl
  | i | pc | stack | sp | dt | st | key | run | errors | draws => rfl

theorem getPixel_inside (px : Fin 64) (py : Fin 32) (s : State) :
    getPixel px.val py.val s = pixelAt s.fb px py := by
  have hx : wrapX px.val = px := Fin.ofNat_val_eq_self px
  have hy : wrapY py.val = py := Fin.ofNat_val_eq_self py
  rw [getPixel, if_pos (by omega), Int.toNat_natCast, Int.toNat_natCast, hx, hy]

theorem getPixel_outside {x y : Int} (h : x < 0 ∨ 63 < x ∨ y < 0 ∨ 31 < y) (s : State) :
    getPixel x y s = false :=
  if_neg (by omega)

theorem soundActive_iff {s : State} : soundActive s = true ↔ 0 < s.st.toNat := decide_eq_true_iff

/-- Settles O49: a pixel inside the grid is its own column and row modulo 64 and 32. -/
theorem hostReadsDisplayAndSound : Obligations.HostReadsDisplayAndSound := by
  refine fun s => ⟨⟨rfl, rfl, consumeRedrawFlag_unchanged s⟩, ?_,
    fun _ _ h => getPixel_outside h s, fun _ _ => rfl, soundActive_iff, rfl⟩
  rintro _ _ px py rfl rfl
  exact getPixel_inside px py s

end Sys2Proof.Machine
end

section
/-! Everything a step can do (40_cycle.md R121, R125, 60_exceptions.md R302, R303), said once: a halted
machine stays as it is; an instruction completes, with the next PC of its row in the table of R125 and
with memory written above the font at most; or one well-formed record is raised and nothing is written.
What a step keeps, logs and reports is read off these three outcomes. -/

namespace Sys2Proof.Machine

/-! Writes above the font area and inside the address space. -/

/-- From `m` to `m'` some bytes were written, none of them below 0x050 or above 0xFFF. -/
def WritesWorkArea (m m' : Memory) : Prop :=
  ∃ a bs, 0x050 ≤ a ∧ a + bs.length ≤ 0x1000 ∧ m' = m.writeBytes a bs

theorem WritesWorkArea.refl (m : Memory) : WritesWorkArea m m :=
  ⟨0x050, [], by decide, by decide, rfl⟩

theorem WritesWorkArea.wf {m m' : Memory} (h : WritesWorkArea m m') (hm : m.wf) : m'.wf := by
  obtain ⟨a, bs, -, hend, rfl⟩ := h
  exact Memory.wf_writeBytes hm hend

theorem WritesWorkArea.read_font {m m' : Memory} (h : WritesWorkArea m m') {a : Nat}
    (ha : a ≤ 0x04F) : m'.read a = m.read a := by
  obtain ⟨b, bs, hstart, -, rfl⟩ := h
  exact Memory.read_writeBytes_outside m (.inl (by omega))

/-! What an instruction answers. -/

/-- From `s` to `t` the instruction completed without an error. -/
structure Completes (i : Instr) (s t : State) : Prop where
  errors : t.errors = s.errors
  run : t.run ≠ .halted
  pc : t.pc = BitVec.ofNat 16 (nextPc i s)
  mem : WritesWorkArea s.mem t.mem

/-- The answer `r` of the instruction at `s` is a completion, or a record such as some step raises. -/
def CompletesOrRaises (i : Instr) (s : State) (r : Step) : Prop :=
  (∃ t, r = .next t ∧ Completes i s t) ∨
    ∃ k info, r = .next (raise k (some (encode i)) info s) ∧
      ErrorRecord.wf ⟨k, s.pc, some (encode i), info⟩

theorem complete_completes {i : Instr} {s d : State} {w : Word}
    (hpc : w = BitVec.ofNat 16 (nextPc i s)) (herrors : d.errors = s.errors)
    (hmem : WritesWorkArea s.mem d.mem) : CompletesOrRaises i s (complete w d) :=
  .inl ⟨_, rfl, herrors, RunState.noConfusion, hpc, hmem⟩

/-- PC plus a constant, modulo 2^16 (R37). -/
theorem ofNat_pc_add (w : Word) (k : Nat) :
    BitVec.ofNat 16 (w.toNat + k) = w + BitVec.ofNat 16 k := by
  simp [BitVec.ofNat_add]

theorem advance_completes {i : Instr} {s d : State} (hnext : nextPc i s = s.pc.toNat + 2)
    (hpc : d.pc = s.pc) (herrors : d.errors = s.errors) (hmem : WritesWorkArea s.mem d.mem) :
    CompletesOrRaises i s (advance d) :=
  complete_completes (by rw [hnext, hpc, ofNat_pc_add]; rfl) herrors hmem

theorem skipIf_completes {i : Instr} {s : State} {c : Bool}
    (hnext : nextPc i s = s.pc.toNat + if c then 4 else 2) :
    CompletesOrRaises i s (skipIf c s) := by
  refine complete_completes ?_ rfl (.refl _)
  rw [hnext, ofNat_pc_add]
  cases c <;> rfl

theorem raiseBy_raises {i : Instr} {k : ErrorKind} {info : Option Nat} {s : State}
    (hwf : ErrorRecord.wf ⟨k, s.pc, some (encode i), info⟩) :
    CompletesOrRaises i s (raiseBy i k info s) :=
  .inr ⟨k, info, rfl, hwf⟩

theorem firstFault_read_cases {a n : Nat} {f : AccessFault}
    (h : firstFault checkRead a n = some f) : ∃ b, 0xFFF < b ∧ f = ⟨.memoryRange, b⟩ := by
  obtain ⟨k, -, hk, -⟩ := firstFault_eq_some.1 h
  exact ⟨a + k, checkRead_eq_some.1 hk⟩

theorem checkWrite_cases {a : Nat} {f : AccessFault} (h : checkWrite a = some f) :
    (0xFFF < a ∧ f = ⟨.memoryRange, a⟩) ∨ (a ≤ 0x04F ∧ f = ⟨.fontWrite, a⟩) := by
  unfold checkWrite at h
  split at h
  · next hrange => exact .inl ⟨hrange, (Option.some.inj h).symm⟩
  · split at h
    · next hfont => exact .inr ⟨hfont, (Option.some.inj h).symm⟩
    · exact absurd h (Option.some_ne_none f).symm

theorem firstFault_write_cases {a n : Nat} {f : AccessFault}
    (h : firstFault checkWrite a n = some f) :
    ∃ b, (0xFFF < b ∧ f = ⟨.memoryRange, b⟩) ∨ (b ≤ 0x04F ∧ f = ⟨.fontWrite, b⟩) := by
  obtain ⟨k, -, hk, -⟩ := firstFault_eq_some.1 h
  exact ⟨a + k, checkWrite_cases hk⟩

/-- DXYN and FX65 read at I, and write no memory. -/
theorem accessing_read_completesOrRaises {i : Instr} {n : Nat} {s d : State}
    (hi : (∃ x y n, i = .drw x y n) ∨ ∃ x, i = .load x)
    (hpc : d.pc = s.pc) (herrors : d.errors = s.errors) (hmem : d.mem = s.mem) :
    CompletesOrRaises i s (accessing i checkRead n s d) := by
  rcases accessing_cases i checkRead n s d with ⟨-, e⟩ | ⟨f, hf, e⟩ <;> rw [e]
  · have hnext : nextPc i s = s.pc.toNat + 2 := by
      rcases hi with ⟨x, y, n, rfl⟩ | ⟨x, rfl⟩ <;> rfl
    exact advance_completes hnext hpc herrors (hmem ▸ .refl _)
  · obtain ⟨b, hb, rfl⟩ := firstFault_read_cases hf
    refine raiseBy_raises ⟨⟨b, rfl, hb⟩, .inr ?_⟩
    rcases hi with ⟨x, y, n, rfl⟩ | ⟨x, rfl⟩
    · exact ⟨x, y, n, .inl rfl⟩
    · exact ⟨x, 0, 0, .inr (.inr (.inr rfl))⟩

/-- FX33 and FX55 write the bytes `bs` at I. -/
theorem accessing_write_completesOrRaises {i : Instr} {s : State} {bs : List Byte}
    (hi : ∃ x, i = .ldB x ∨ i = .store x) (hbs : bs ≠ []) :
    CompletesOrRaises i s
      (accessing i checkWrite bs.length s (s.setMem (s.mem.writeBytes s.i.toNat bs))) := by
  obtain ⟨x, hx⟩ := hi
  rcases accessing_cases i checkWrite bs.length s (s.setMem (s.mem.writeBytes s.i.toNat bs)) with
    ⟨hok, e⟩ | ⟨f, hf, e⟩ <;> rw [e]
  · have hnext : nextPc i s = s.pc.toNat + 2 := by rcases hx with rfl | rfl <;> rfl
    obtain ⟨hstart, hend⟩ :=
      (firstFault_write_eq_none.1 hok).resolve_left (mt List.length_eq_zero_iff.1 hbs)
    exact advance_completes hnext rfl rfl ⟨_, bs, hstart, hend, rfl⟩
  · obtain ⟨b, ⟨hb, rfl⟩ | ⟨hb, rfl⟩⟩ := firstFault_write_cases hf
    · refine raiseBy_raises ⟨⟨b, rfl, hb⟩, .inr ⟨x, 0, 0, ?_⟩⟩
      rcases hx with rfl | rfl
      · exact .inr (.inl rfl)
      · exact .inr (.inr (.inl rfl))
    · refine raiseBy_raises ⟨⟨b, rfl, hb⟩, x, ?_⟩
      exact hx.imp (by rintro rfl; rfl) (by rintro rfl; rfl)

theorem keyQuery_completesOrRaises {i : Instr} {x : Reg} {wanted : Bool} {s : State}
    (hi : i = .skp x ∨ i = .sknp x)
    (hnext : nextPc i s = s.pc.toNat +
      if s.key.toList[(s.readV x).toNat]? = some wanted then 4 else 2) :
    CompletesOrRaises i s (keyQuery i x wanted s) := by
  unfold keyQuery
  split
  · next hkey =>
    have hlt := isKey_iff.1 hkey
    refine skipIf_completes ?_
    rw [hnext, keyPressed_eq hlt]
    simp [hlt]
  · next hkey =>
    have hgt : 0x0F < (s.readV x).toNat := Nat.not_lt.1 (mt isKey_iff.2 hkey)
    refine raiseBy_raises ⟨⟨_, rfl, hgt, Nat.le_of_lt_succ (s.readV x).isLt⟩, x, ?_⟩
    exact hi.imp (by rintro rfl; rfl) (by rintro rfl; rfl)

theorem execRet_completesOrRaises (s : State) : CompletesOrRaises .ret s (execRet s) := by
  unfold execRet
  split
  · exact raiseBy_raises ⟨rfl, rfl⟩
  · exact complete_completes (by simp [nextPc, State.top]) rfl (.refl _)

theorem zext16_eq_ofNat (nnn : Addr12) : zext16 nnn = BitVec.ofNat 16 nnn.toNat :=
  (BitVec.ofNat_toNat 16 nnn).symm

theorem execCall_completesOrRaises (nnn : Addr12) (s : State) :
    CompletesOrRaises (.call nnn) s (execCall nnn s) := by
  unfold execCall
  split
  · exact raiseBy_raises ⟨rfl, nnn, rfl⟩
  · exact complete_completes (zext16_eq_ofNat nnn) (s.push_errors _) (s.push_mem _ ▸ .refl _)

theorem true_mem_of_lowestKey {keys : Vector Bool 16} {k : Nat} (h : lowestKey keys = some k) :
    true ∈ keys.toList := by
  obtain ⟨hk, hpressed, -⟩ := lowestKey_eq_some.1 h
  exact Vector.mem_toList_iff.2 (hpressed ▸ Vector.getElem_mem hk)

theorem true_notMem_of_lowestKey {keys : Vector Bool 16} (h : lowestKey keys = none) :
    true ∉ keys.toList := fun hmem =>
  Bool.noConfusion (lowestKey_eq_none.1 h true (Vector.mem_toList_iff.1 hmem))

theorem execLdKey_completesOrRaises (x : Reg) (s : State) :
    CompletesOrRaises (.ldKey x) s (execLdKey x s) := by
  unfold execLdKey
  split
  · next k hk =>
    exact advance_completes (by rw [nextPc, if_pos (true_mem_of_lowestKey hk)]) rfl rfl (.refl _)
  · next hk =>
    refine .inl ⟨_, rfl, rfl, RunState.noConfusion, ?_, .refl _⟩
    rw [nextPc, if_neg (true_notMem_of_lowestKey hk)]
    simp

/-- Every instruction completes by its row of the table of R125, or raises a well-formed record. -/
theorem exec_completesOrRaises (i : Instr) (s : State) : CompletesOrRaises i s (exec i s) := by
  cases i
  case ret => exact execRet_completesOrRaises s
  case call nnn => exact execCall_completesOrRaises nnn s
  case jp nnn => exact complete_completes (zext16_eq_ofNat nnn) rfl (.refl _)
  case jpV0 => exact complete_completes rfl rfl (.refl _)
  case seImm | seReg => exact skipIf_completes (by simp [nextPc])
  case sneImm | sneReg => exact skipIf_completes (by simp [nextPc])
  case skp x => exact keyQuery_completesOrRaises (.inl rfl) rfl
  case sknp x => exact keyQuery_completesOrRaises (.inr rfl) rfl
  case ldKey x => exact execLdKey_completesOrRaises x s
  case drw x y n => exact accessing_read_completesOrRaises (.inl ⟨x, y, n, rfl⟩) rfl rfl rfl
  case load x => exact accessing_read_completesOrRaises (.inr ⟨x, rfl⟩) rfl rfl rfl
  case ldB x =>
    exact accessing_write_completesOrRaises (bs := bcdDigits _) ⟨x, .inl rfl⟩ (List.cons_ne_nil _ _)
  case store x =>
    have hlen := length_regBytes s.v x
    show CompletesOrRaises _ s (accessing _ checkWrite (x.toNat + 1) s _)
    rw [← hlen]
    exact accessing_write_completesOrRaises ⟨x, .inr rfl⟩
      (List.ne_nil_of_length_pos (hlen ▸ Nat.succ_pos _))
  -- every other instruction advances
  all_goals exact advance_completes rfl rfl rfl (.refl _)

/-! What a step answers. -/

/-- The word of a record: the word fetched, or none where the fetch failed (R302, R303). -/
def IsFetchedWord (s : State) (w : Option Word) : Prop :=
  (w = none ∧ ∃ f, fetch s = .error f) ∨ ∃ w', w = some w' ∧ fetch s = .ok w'

/-- A step from `s` ends in `t` in one of three ways. -/
inductive StepOutcome (s : State) : State → Prop where
  | halted (hrun : s.run = .halted) : StepOutcome s s
  | completes {w : Word} {i : Instr} {t : State} (hrun : s.run ≠ .halted)
      (hfetch : fetch s = .ok w) (hdecode : decodeWord w = .ok i) (h : Completes i s t) :
      StepOutcome s t
  | raises {k : ErrorKind} {w : Option Word} {info : Option Nat} (hrun : s.run ≠ .halted)
      (hword : IsFetchedWord s w) (hwf : ErrorRecord.wf ⟨k, s.pc, w, info⟩) :
      StepOutcome s (raise k w info s)

theorem fetch_error_cases {s : State} {f : AccessFault} (h : fetch s = .error f) :
    ∃ b, 0xFFF < b ∧ f = ⟨.memoryRange, b⟩ := by
  unfold fetch at h
  split at h
  · next g hg =>
    cases h
    exact firstFault_read_cases hg
  · exact nomatch h

theorem step_outcome (s : State) : ∃ t, step s = .next t ∧ StepOutcome s t := by
  rcases step_cases s with ⟨hrun, e⟩ | ⟨hrun, f, hf, e⟩ | ⟨hrun, w, _, hf, hd, e⟩ |
    ⟨hrun, w, i, hf, hd, e⟩ <;> rw [e]
  · exact ⟨s, rfl, .halted hrun⟩
  · obtain ⟨b, hb, rfl⟩ := fetch_error_cases hf
    exact ⟨_, rfl, .raises hrun (.inl ⟨rfl, _, hf⟩) ⟨⟨b, rfl, hb⟩, .inl rfl⟩⟩
  · exact ⟨_, rfl, .raises hrun (.inr ⟨w, rfl, hf⟩) ⟨rfl, w, _, rfl, hd⟩⟩
  · rcases exec_completesOrRaises i s with ⟨t, e, h⟩ | ⟨k, info, e, hwf⟩
    · exact ⟨t, e, .completes hrun hf hd h⟩
    · have hw : encode i = w := (decodeAndEncodeAreInverse w i).1 hd
      exact ⟨_, e, .raises hrun (.inr ⟨_, rfl, hw ▸ hf⟩) hwf⟩

theorem stepOutcome_of_step {s t : State} (h : step s = .next t) : StepOutcome s t := by
  obtain ⟨u, e, hu⟩ := step_outcome s
  cases e.symm.trans h
  exact hu

/-! The invariant. -/

@[simp] theorem raise_mem (k : ErrorKind) (w : Option Word) (info : Option Nat) (s : State) :
    (raise k w info s).mem = s.mem := by rw [raise_eq]

/-- A halting fault is the last record of the log it halts with, at the PC it leaves (R303). -/
theorem State.Inv.raise {k : ErrorKind} {w : Option Word} {info : Option Nat} {s : State}
    (h : s.Inv) (hwf : ErrorRecord.wf ⟨k, s.pc, w, info⟩) : (raise k w info s).Inv where
  memory := raise_mem k w info s ▸ h.memory
  records r hr := by
    rw [raise_errors, List.mem_append, List.mem_singleton] at hr
    rcases hr with hr | rfl
    · exact h.records r hr
    · exact hwf
  halted hrun := by
    have hk : k.halting = true := by
      by_contra hk
      rw [raise_run, if_neg hk] at hrun
      exact RunState.noConfusion hrun
    exact ⟨⟨k, s.pc, w, info⟩, by simp, hk, by simp [hk]⟩

theorem State.Inv.completes {i : Instr} {s t : State} (h : s.Inv) (ht : Completes i s t) :
    t.Inv where
  memory := ht.mem.wf h.memory
  records := ht.errors ▸ h.records
  halted hrun := absurd hrun ht.run

theorem State.Inv.step {s t : State} (h : s.Inv) (hstep : step s = .next t) : t.Inv := by
  cases stepOutcome_of_step hstep with
  | halted => exact h
  | completes _ _ _ ht => exact h.completes ht
  | raises _ _ hwf => exact h.raise hwf

/-- Settles O58: a completion writes memory inside the address space, logs nothing and does not halt; an
error adds a well-formed record, its own explanation where it halts. -/
theorem invariantKeptByEveryStep : Obligations.InvariantKeptByEveryStep :=
  fun _ _ => State.Inv.step

/-- Settles O57: nothing is listed in memory, nothing is logged, and RUN is RUNNING. -/
theorem invariantHoldsAtReset : Obligations.InvariantHoldsAtReset where
  memory := Memory.wf_nil
  records := by simp [State.reset]
  halted := RunState.noConfusion

/-! What a step answers, logs and reports. -/

theorem exec_next (i : Instr) (s : State) : ∃ t, exec i s = .next t := by
  rcases exec_completesOrRaises i s with ⟨t, e, -⟩ | ⟨k, info, e, -⟩
  · exact ⟨t, e⟩
  · exact ⟨_, e⟩

/-- Settles O11: a completion and an error are next states. -/
theorem everyStepAnswersNext : Obligations.EveryStepAnswersNext := by
  refine ⟨exec_next, fun s => ?_⟩
  obtain ⟨t, e, -⟩ := step_outcome s
  exact ⟨t, e⟩

/-- Settles O54: the record raised has the step's PC and the fetched word, and an error writes the log,
PC and RUN only. -/
theorem errorsArePrecise : Obligations.ErrorsArePrecise := by
  intro s t h
  cases stepOutcome_of_step h with
  | halted => exact .inl rfl
  | completes _ _ _ ht => exact .inl ht.errors
  | raises _ hword _ => exact .inr ⟨_, raise_errors .., rfl, raise_unchanged _ _ _ s, hword⟩

theorem stepResult_of_errors_eq {s t : State} (hrun : s.run ≠ .halted)
    (ht : t.errors = s.errors) :
    stepResult s t = if t.run = .awaitingKey then .awaitingKey else .ok := by
  simp [stepResult, hrun, ht]

/-- Settles O12: a completion leaves the log and does not halt, so RUN tells AWAITING_KEY from OK; an
error appends one record, whose kind is reported. -/
theorem stepReportsItsOutcome : Obligations.StepReportsItsOutcome := by
  intro s t h
  refine ⟨fun hrun => if_pos hrun, fun hrun => ?_⟩
  cases stepOutcome_of_step h with
  | halted hhalted => exact absurd hhalted hrun
  | completes _ _ _ ht =>
    rw [stepResult_of_errors_eq hrun ht.errors]
    have hnot := ht.run
    cases hr : t.run with
    | halted => exact absurd hr hnot
    | running | awaitingKey => simp [ht.errors]
  | raises _ _ _ =>
    rw [stepResult_of_errors_append hrun (raise_errors ..)]
    simp

/-! The PC table. -/

theorem pc_le_of_fetch {s : State} {w : Word} (h : fetch s = .ok w) : s.pc.toNat ≤ 0xFFE := by
  unfold fetch at h
  split at h
  · exact nomatch h
  · next hok =>
    have := (firstFault_read_eq_none.1 hok).resolve_left (by decide)
    omega

/-- Where PC is that of a fetched word no row of the table of R125 wraps. -/
theorem nextPc_lt {s : State} (hpc : s.pc.toNat ≤ 0xFFE) (i : Instr) : nextPc i s < 0x10000 := by
  unfold nextPc
  split
  case h_1 => exact BitVec.isLt _
  case h_2 | h_3 | h_4 => omega
  case h_5 | h_6 | h_7 | h_8 | h_9 | h_10 | h_11 => split <;> omega
  all_goals omega

/-- Settles O13: a completion ends at its row's integer, which fits in PC; a recoverable error skips the
instruction, and a halting fault leaves PC. -/
theorem stepFollowsPcTable : Obligations.StepFollowsPcTable := by
  intro s t w i hrun hfetch hdecode h
  have hpc := pc_le_of_fetch hfetch
  cases stepOutcome_of_step h with
  | halted hhalted => exact absurd hhalted hrun
  | completes _ hfetch' hdecode' ht =>
    cases hfetch.symm.trans hfetch'
    cases hdecode.symm.trans hdecode'
    refine ⟨fun _ => ?_, fun hne => absurd ht.errors hne, fun hne => absurd ht.errors hne⟩
    rw [ht.pc, BitVec.toNat_ofNat, Nat.mod_eq_of_lt (nextPc_lt hpc i)]
  | @raises k w info _ _ _ =>
    refine ⟨fun he => ?_, fun _ hr => ?_, fun _ hr => ?_⟩
    · simp at he
    · cases hk : k.halting
      · rw [raise_pc, hk]
        simp [BitVec.toNat_add]
        omega
      · simp [hk] at hr
    · cases hk : k.halting
      · simp [hk] at hr
      · simp [hk]

end Sys2Proof.Machine
end

section
/-! The operations of the host (60_exceptions.md R320, 70_reset_and_hazards.md R350 to R354, 46_timers.md
R286): what reset and a load leave, what ticks do, and what every sequence of operations keeps. A property
that each operation of a sequence keeps is kept by the sequence; that is the one induction. -/

namespace Sys2Proof.Machine

/-! Reset. -/

theorem read_fontMemory_font (font : Vector Byte 80) {a : Nat} (ha : a < 80) :
    (fontMemory font).read a = font[a] := by
  have h := Memory.read_writeBytes_inside [] 0 font.toList (j := a) (by simpa using ha)
  simpa [fontMemory] using h

theorem read_fontMemory_above (font : Vector Byte 80) {a : Nat} (ha : 0x050 ≤ a) :
    (fontMemory font).read a = 0 := by
  have h : (fontMemory font).read a = Memory.initial a :=
    Memory.read_writeBytes_outside [] (.inr (by simpa using ha))
  rw [h, Memory.initial, if_neg]
  simp only [Config.fontLast]
  omega

theorem wf_fontMemory (font : Vector Byte 80) : (fontMemory font).wf :=
  Memory.wf_writeBytes Memory.wf_nil (by simp)

/-- Settles O51: every field but memory and `draws` is that of `State.reset`, and memory is the bytes of
the FONT written over nothing. -/
theorem resetSetsEveryField : Obligations.ResetSetsEveryField := by
  refine fun font s => ⟨fun r => ?_, rfl, rfl, fun j hj => ?_, rfl, rfl, rfl,
    fun x y => pixelAt_blankScreen x y, fun k hk => ?_, rfl, rfl, rfl,
    fun a ha => read_fontMemory_font font ha, fun a ha => read_fontMemory_above font ha⟩
  · exact Vector.getElem_replicate _
  · exact Vector.getElem_replicate _
  · exact Vector.getElem_replicate _

/-! The load. -/

theorem loadProgram_of_le {bytes : List Byte} (h : bytes.length ≤ 3584) (s : State) :
    loadProgram bytes s = (s.setMem (s.mem.writeBytes 0x200 bytes), .ok) :=
  if_pos (decide_eq_true h)

theorem loadProgram_of_gt {bytes : List Byte} (h : 3584 < bytes.length) (s : State) :
    loadProgram bytes s = (s, .loadError bytes.length) :=
  if_neg (mt of_decide_eq_true (Nat.not_le.2 h))

theorem loadProgram_writesWorkArea (bytes : List Byte) (s : State) :
    WritesWorkArea s.mem (loadProgram bytes s).1.mem := by
  rcases Nat.lt_or_ge 3584 bytes.length with h | h
  · rw [loadProgram_of_gt h]
    exact .refl _
  · rw [loadProgram_of_le h]
    exact ⟨0x200, bytes, by decide, by omega, rfl⟩

/-- Settles O52: a program that fits is written at 0x200, and one that does not is turned away. -/
theorem loadProgramIsAllOrNothing : Obligations.LoadProgramIsAllOrNothing := by
  refine fun bytes s => ⟨fun h => ?_, fun h => loadProgram_of_gt h s⟩
  rw [loadProgram_of_le h]
  exact ⟨rfl, fun _ hk => Memory.read_writeBytes_inside _ _ _ hk,
    fun _ ha => Memory.read_writeBytes_outside _ ha, setMem_unchanged _ s⟩

/-! Ticks. -/

theorem tickTimers_unchanged (s : State) : UnchangedExcept [.dt, .st] s (tickTimers s) :=
  (setDT_unchanged _ s).trans (setST_unchanged _ _)

theorem iterate_tickTimers_unchanged (k : Nat) (s : State) :
    UnchangedExcept [.dt, .st] s (tickTimers^[k] s) := by
  induction k with
  | zero => exact .refl _ s
  | succ k ih =>
    rw [Function.iterate_succ_apply']
    exact (ih.trans (tickTimers_unchanged _)).mono (by decide)

/-- Settles O47: each timer counts down by itself, and a tick writes nothing else. -/
theorem ticksCountDownToZero : Obligations.TicksCountDownToZero := fun k s =>
  ⟨by rw [iterate_tickTimers_dt, iterate_countDown_toNat],
    by rw [iterate_tickTimers_st, iterate_countDown_toNat], iterate_tickTimers_unchanged k s⟩

/-! Sequences of operations. -/

/-- What every operation of a sequence keeps, the sequence keeps. -/
theorem runOps_keeps {P : State → Prop} {ops : List HostOp}
    (hop : ∀ op ∈ ops, ∀ s t, P s → op.apply s = .next t → P t) {s t : State} (hs : P s)
    (hrun : runOps ops s = .next t) : P t := by
  induction ops generalizing s with
  | nil =>
    cases hrun
    exact hs
  | cons op ops ih =>
    rw [runOps] at hrun
    split at hrun
    · next u hu =>
      exact ih (fun o ho => hop o (List.mem_cons_of_mem op ho))
        (hop op List.mem_cons_self s u hs hu) hrun
    · nomatch hrun
    · nomatch hrun

/-! The font area and the invariant. -/

theorem StepOutcome.writesWorkArea {s t : State} (h : StepOutcome s t) :
    WritesWorkArea s.mem t.mem := by
  cases h with
  | halted => exact .refl _
  | completes _ _ _ ht => exact ht.mem
  | raises => exact raise_mem .. ▸ .refl _

@[simp] theorem setKey_mem (key : Int) (pressed : Bool) (s : State) :
    (setKey key pressed s).mem = s.mem := by
  unfold setKey
  split <;> rfl

/-- Only reset writes the font area (R62). -/
theorem HostOp.writesWorkArea_of_apply {op : HostOp} {s t : State} (hreset : ∀ f, op ≠ .reset f)
    (h : op.apply s = .next t) : WritesWorkArea s.mem t.mem := by
  cases op with
  | reset font => exact absurd rfl (hreset font)
  | step => exact (stepOutcome_of_step h).writesWorkArea
  | loadProgram bytes =>
    cases h
    exact loadProgram_writesWorkArea bytes s
  | setKey key pressed =>
    cases h
    exact setKey_mem key pressed s ▸ .refl _
  | tickTimers | getPixel | consumeRedrawFlag | soundActive | errors =>
    cases h
    exact .refl _

/-- Settles O55: every operation but reset writes above the font only. -/
theorem fontAreaIsImmutable : Obligations.FontAreaIsImmutable := by
  intro ops s t hops hrun a ha
  refine runOps_keeps (P := fun u => u.mem.read a = s.mem.read a) ?_ rfl hrun
  intro op hop u v hu hv
  exact ((HostOp.writesWorkArea_of_apply (hops op hop) hv).read_font ha).trans hu

theorem State.Inv.resetOp (font : Vector Byte 80) (s : State) : (resetOp font s).Inv where
  memory := wf_fontMemory font
  records _ hr := absurd hr List.not_mem_nil
  halted := RunState.noConfusion

/-- The invariant speaks of memory, ERRORS, RUN and PC. -/
theorem State.Inv.of_unchanged {fs : List Field} {s t : State} (h : s.Inv) (hmem : t.mem.wf)
    (hframe : UnchangedExcept fs s t) (herrors : .errors ∉ fs) (hrun : .run ∉ fs)
    (hpc : .pc ∉ fs) : t.Inv := by
  have he : t.errors = s.errors := hframe .errors herrors
  have hr : t.run = s.run := hframe .run hrun
  have hp : t.pc = s.pc := hframe .pc hpc
  exact ⟨hmem, he ▸ h.records, by rw [he, hr, hp]; exact h.halted⟩

theorem HostOp.inv_of_apply {op : HostOp} {s t : State} (hs : s.Inv) (h : op.apply s = .next t) :
    t.Inv := by
  cases op with
  | reset font =>
    cases h
    exact State.Inv.resetOp font s
  | step => exact hs.step h
  | loadProgram bytes =>
    cases h
    exact hs.of_unchanged ((loadProgram_writesWorkArea bytes s).wf hs.memory)
      (loadProgram_unchanged bytes s) (by decide) (by decide) (by decide)
  | setKey key pressed =>
    cases h
    exact hs.of_unchanged (setKey_mem key pressed s ▸ hs.memory) (setKey_unchanged key pressed s)
      (by decide) (by decide) (by decide)
  | tickTimers | getPixel | consumeRedrawFlag | soundActive | errors =>
    cases h
    exact ⟨hs.memory, hs.records, hs.halted⟩

/-- Settles O59: every operation keeps the invariant: a step by O58, a load because it stays inside the
address space, a reset whatever the state was. -/
theorem invariantKeptByEveryRun : Obligations.InvariantKeptByEveryRun :=
  fun _ _ _ hs hrun => runOps_keeps (fun _ _ _ _ => HostOp.inv_of_apply) hs hrun

/-! HALTED. -/

theorem step_of_halted {s : State} (h : s.run = .halted) : step s = .next s := if_pos h

/-- Settles O8: the HALTED check comes first, in the step and in its report. -/
theorem haltedStepChangesNothing : Obligations.HaltedStepChangesNothing :=
  fun _ h => ⟨step_of_halted h, if_pos h⟩

/-- On a halted machine no operation but reset writes PC, RUN, a register, the stack, the screen or the
log. -/
theorem HostOp.unchanged_of_halted {op : HostOp} {s t : State} (hhalted : s.run = .halted)
    (hreset : ∀ f, op ≠ .reset f) (h : op.apply s = .next t) :
    UnchangedExcept [.mem, .dt, .st, .key, .redraw] s t := by
  cases op with
  | reset font => exact absurd rfl (hreset font)
  | step =>
    cases (step_of_halted hhalted).symm.trans h
    exact .refl _ s
  | loadProgram bytes =>
    cases h
    exact (loadProgram_unchanged bytes s).mono (by decide)
  | tickTimers =>
    cases h
    exact (tickTimers_unchanged s).mono (by decide)
  | setKey key pressed =>
    cases h
    exact (setKey_unchanged key pressed s).mono (by decide)
  | consumeRedrawFlag =>
    cases h
    exact (consumeRedrawFlag_unchanged s).mono (by decide)
  | getPixel | soundActive | errors =>
    cases h
    exact .refl _ s

/-- Settles O56: RUN is among the fields kept, so the machine is halted before each operation. -/
theorem onlyResetLeavesHalted : Obligations.OnlyResetLeavesHalted := by
  intro ops s t hops hhalted hrun
  refine runOps_keeps (P := UnchangedExcept [.mem, .dt, .st, .key, .redraw] s) ?_ (.refl _ s) hrun
  intro op hop u v hu hv
  have hrun' : u.run = s.run := hu .run (by decide)
  have huv := HostOp.unchanged_of_halted (hrun'.trans hhalted) (hops op hop) hv
  exact (hu.trans huv).mono (by decide)

/-! Runs of steps alone that stay in one state. -/

/-- Steps that lead to a state the step does not leave end there, after any number of them. -/
theorem runOps_replicate_step {s t : State} (hs : step s = .next t) (ht : step t = .next t)
    (k : Nat) : runOps (List.replicate (k + 1) .step) s = .next t := by
  induction k generalizing s with
  | zero => simp [runOps, HostOp.apply, hs]
  | succ k ih =>
    rw [List.replicate_succ, runOps]
    simpa [HostOp.apply, hs] using ih ht

theorem step_of_decodeWord_ok {s : State} {w : Word} {i : Instr} (hrun : s.run ≠ .halted)
    (hf : fetch s = .ok w) (hd : decodeWord w = .ok i) : step s = exec i s := by
  simp [step, hrun, hf, hd]

theorem fetch_setRun (r : RunState) (s : State) : fetch (s.setRun r) = fetch s := rfl

/-- A step that only sets RUN, whatever RUN was, is repeated by the steps after it. -/
theorem runOps_replicate_setRun {s : State} {w : Word} {i : Instr} {r : RunState}
    (hrun : s.run ≠ .halted) (hr : r ≠ .halted) (hf : fetch s = .ok w)
    (hd : decodeWord w = .ok i) (hexec : exec i s = .next (s.setRun r))
    (hexec' : exec i (s.setRun r) = .next (s.setRun r)) (k : Nat) :
    runOps (List.replicate (k + 1) .step) s = .next (s.setRun r) :=
  runOps_replicate_step ((step_of_decodeWord_ok hrun hf hd).trans hexec)
    ((step_of_decodeWord_ok hr ((fetch_setRun r s).trans hf) hd).trans hexec') k

theorem exec_jp_self {nnn : Addr12} {s : State} (h : s.pc.toNat = nnn.toNat) :
    exec (.jp nnn) s = .next (s.setRun .running) := by
  have hpc : zext16 nnn = s.pc := BitVec.eq_of_toNat_eq (by rw [zext16_toNat, h])
  show complete (zext16 nnn) s = _
  rw [complete_eq, hpc]
  rfl

/-- Settles O14: the jump writes the PC it finds. -/
theorem selfJumpIsFixedPoint : Obligations.SelfJumpIsFixedPoint := fun _ nnn k hrun hpc hf =>
  runOps_replicate_setRun hrun RunState.noConfusion hf (decodeWord_encode (.jp nnn))
    (exec_jp_self hpc) (exec_jp_self hpc) k

theorem exec_ldKey_of_none {s : State} (h : ∀ k (hk : k < 16), s.key[k] = false) (x : Reg) :
    exec (.ldKey x) s = .next (s.setRun .awaitingKey) := by
  have hnone : lowestKey s.key = none := lowestKey_eq_none.2 fun b hb => by
    obtain ⟨k, hk, rfl⟩ := Vector.getElem_of_mem hb
    exact h k hk
  show execLdKey x s = _
  simp [execLdKey, hnone, awaitKey]

/-- Settles O44: KEY is as it was after the step, so the next one waits too. -/
theorem keyWaitHoldsForever : Obligations.KeyWaitHoldsForever := fun _ x k hrun hf hkey =>
  runOps_replicate_setRun hrun RunState.noConfusion hf (decodeWord_encode (.ldKey x))
    (exec_ldKey_of_none hkey x) (exec_ldKey_of_none hkey x) k

/-- Settles O43: the lowest pressed key is the one with every lower key released. -/
theorem keyWaitTakesLowestKey : Obligations.KeyWaitTakesLowestKey := by
  refine fun x => ⟨decodeWord_encode (.ldKey x), fun s k hk hpressed hlower => ?_, fun s hnone =>
    ⟨_, exec_ldKey_of_none hnone x, rfl, setRun_unchanged _ s⟩⟩
  have hkey : lowestKey s.key = some k := lowestKey_eq_some.2 ⟨hk, hpressed, hlower⟩
  obtain ⟨t, hexec, hx, hframe⟩ := advance_setV_next x (BitVec.ofNat 8 k) s
  refine ⟨t, ?_, ?_, hframe⟩
  · show execLdKey x s = _
    simpa [execLdKey, hkey] using hexec
  · rw [hx, BitVec.toNat_ofNat]
    omega

end Sys2Proof.Machine
end

section
/-! The decoder against the opcode table (30_encoding.md R95, R96) and the table of undefined words (R97).
What a row covers is given by the fields its mask keeps, and such a word is the word of an instruction of
that row; so the rows and the decoder are compared through the encoder. -/

namespace Sys2Proof

/-! Where the decoder rejects a word, family by family: it names the word as undefined. -/

/-- The decoder's answer `d` for `w` is the rejection of `w` as undefined where `P` holds, and an
instruction where it does not. -/
def RejectsExactly (w : Word) (P : Prop) (d : Except Reject Instr) : Prop :=
  (P ∧ d = .error (.undefinedWord w)) ∨ (¬ P ∧ ∃ i, d = .ok i)

theorem rejectsExactly_ok {w : Word} {P : Prop} (hP : ¬ P) (i : Instr) :
    RejectsExactly w P (.ok i) :=
  .inr ⟨hP, i, rfl⟩

theorem rejectsExactly_error {w : Word} {P : Prop} (hP : P) :
    RejectsExactly w P (.error (.undefinedWord w)) :=
  .inl ⟨hP, rfl⟩

theorem RejectsExactly.congr {w : Word} {P Q : Prop} {d : Except Reject Instr}
    (h : RejectsExactly w P d) (hPQ : P ↔ Q) : RejectsExactly w Q d :=
  propext hPQ ▸ h

theorem RejectsExactly.error_iff {w : Word} {P : Prop} {d : Except Reject Instr}
    (h : RejectsExactly w P d) : d = .error (.undefinedWord w) ↔ P := by
  rcases h with ⟨hP, rfl⟩ | ⟨hP, i, rfl⟩
  · exact iff_of_true rfl hP
  · exact iff_of_false nofun hP

theorem RejectsExactly.eq_undefinedWord {w : Word} {P : Prop} {d : Except Reject Instr}
    (h : RejectsExactly w P d) {e : Reject} (he : d = .error e) : e = .undefinedWord w := by
  rcases h with ⟨-, rfl⟩ | ⟨-, i, rfl⟩
  · exact (Except.error.inj he).symm
  · nomatch he

theorem family_toNat (w : Word) : w.family.toNat = w.toNat / 0x1000 := by
  have := w.isLt
  simp only [Word.family, BitVec.extractLsb'_toNat, Nat.shiftRight_eq_div_pow]
  omega

theorem fieldN_toNat (w : Word) : w.fieldN.toNat = w.toNat % 0x10 := by
  simp [Word.fieldN]

theorem fieldNN_toNat (w : Word) : w.fieldNN.toNat = w.toNat % 0x100 := by
  simp [Word.fieldNN]

theorem decodeFamily0_rejectsExactly (w : Word) :
    RejectsExactly w (w.toNat ≠ 0x00E0 ∧ w.toNat ≠ 0x00EE) (decodeFamily0 w) := by
  unfold decodeFamily0
  split
  · next h => exact rejectsExactly_ok (by simp [h]) _
  · next hcls =>
    split
    · next h => exact rejectsExactly_ok (by simp [h]) _
    · next hret =>
      exact rejectsExactly_error ⟨mt (BitVec.eq_of_toNat_eq (y := 0x00E0)) hcls,
        mt (BitVec.eq_of_toNat_eq (y := 0x00EE)) hret⟩

theorem decodeFamily5_rejectsExactly (w : Word) :
    RejectsExactly w (w.toNat % 0x10 ≠ 0) (decodeFamily5 w) := by
  rw [← fieldN_toNat]
  unfold decodeFamily5
  split
  · next h => exact rejectsExactly_ok (by simp [h]) _
  · next h => exact rejectsExactly_error (mt (BitVec.eq_of_toNat_eq (y := 0)) h)

theorem decodeFamily8_rejectsExactly (w : Word) :
    RejectsExactly w (w.toNat % 0x10 ∈ [0x8, 0x9, 0xA, 0xB, 0xC, 0xD, 0xF]) (decodeFamily8 w) := by
  rw [← fieldN_toNat]
  unfold decodeFamily8
  generalize w.fieldN = n
  split
  case h_10 =>
    refine rejectsExactly_error ?_
    revert n
    decide
  all_goals exact rejectsExactly_ok (by decide) _

theorem decodeFamily9_rejectsExactly (w : Word) :
    RejectsExactly w (w.toNat % 0x10 ≠ 0) (decodeFamily9 w) := by
  rw [← fieldN_toNat]
  unfold decodeFamily9
  split
  · next h => exact rejectsExactly_ok (by simp [h]) _
  · next h => exact rejectsExactly_error (mt (BitVec.eq_of_toNat_eq (y := 0)) h)

theorem decodeFamilyE_rejectsExactly (w : Word) :
    RejectsExactly w (w.toNat % 0x100 ∉ [0x9E, 0xA1]) (decodeFamilyE w) := by
  rw [← fieldNN_toNat]
  unfold decodeFamilyE
  generalize w.fieldNN = nn
  split
  case h_3 =>
    refine rejectsExactly_error ?_
    revert nn
    decide
  all_goals exact rejectsExactly_ok (by decide) _

theorem decodeFamilyF_rejectsExactly (w : Word) :
    RejectsExactly w
      (w.toNat % 0x100 ∉ [0x07, 0x0A, 0x15, 0x18, 0x1E, 0x29, 0x33, 0x55, 0x65])
      (decodeFamilyF w) := by
  rw [← fieldNN_toNat]
  unfold decodeFamilyF
  generalize w.fieldNN = nn
  split
  case h_10 =>
    refine rejectsExactly_error ?_
    revert nn
    decide
  all_goals exact rejectsExactly_ok (by decide) _

/-- The table of R97. -/
def UndefinedByFamily (w : Word) : Prop :=
  (w.toNat / 0x1000 = 0x0 ∧ w.toNat ≠ 0x00E0 ∧ w.toNat ≠ 0x00EE) ∨
  (w.toNat / 0x1000 = 0x5 ∧ w.toNat % 0x10 ≠ 0) ∨
  (w.toNat / 0x1000 = 0x8 ∧ w.toNat % 0x10 ∈ [0x8, 0x9, 0xA, 0xB, 0xC, 0xD, 0xF]) ∨
  (w.toNat / 0x1000 = 0x9 ∧ w.toNat % 0x10 ≠ 0) ∨
  (w.toNat / 0x1000 = 0xE ∧ w.toNat % 0x100 ∉ [0x9E, 0xA1]) ∨
  (w.toNat / 0x1000 = 0xF ∧
    w.toNat % 0x100 ∉ [0x07, 0x0A, 0x15, 0x18, 0x1E, 0x29, 0x33, 0x55, 0x65])

theorem decodeWord_rejectsExactly (w : Word) :
    RejectsExactly w (UndefinedByFamily w) (decodeWord w) := by
  unfold UndefinedByFamily
  rw [← family_toNat]
  unfold decodeWord
  split
  case h_1 hf => exact (decodeFamily0_rejectsExactly w).congr (by simp [hf])
  case h_6 hf => exact (decodeFamily5_rejectsExactly w).congr (by simp [hf])
  case h_9 hf => exact (decodeFamily8_rejectsExactly w).congr (by simp [hf])
  case h_10 hf => exact (decodeFamily9_rejectsExactly w).congr (by simp [hf])
  case h_15 hf => exact (decodeFamilyE_rejectsExactly w).congr (by simp [hf])
  case h_16 =>
    have hf : w.family = 0xF#4 := by
      simp only [imp_false] at *
      bv_omega
    exact (decodeFamilyF_rejectsExactly w).congr (by simp [hf])
  all_goals next hf => exact rejectsExactly_ok (by simp [hf]) _

/-- Settles O3: each family rejects its words of the table of R97. -/
theorem undefinedWordsByFamily : Obligations.UndefinedWordsByFamily :=
  fun w => (decodeWord_rejectsExactly w).error_iff

/-! From an instruction to its row. -/

/-- Every instruction's word is in the row of its mnemonic. -/
theorem row_of_instr (i : Instr) :
    ∃ r ∈ opcodeTable, r.mnemonic = i.mnemonic ∧ r.covers (encode i) = true := by
  cases i with
  | cls => exact Laws.InTable.cls
  | ret => exact Laws.InTable.ret
  | jp nnn => exact Laws.InTable.jp nnn
  | call nnn => exact Laws.InTable.call nnn
  | seImm x nn => exact Laws.InTable.seImm x nn
  | sneImm x nn => exact Laws.InTable.sneImm x nn
  | seReg x y => exact Laws.InTable.seReg x y
  | ldImm x nn => exact Laws.InTable.ldImm x nn
  | addImm x nn => exact Laws.InTable.addImm x nn
  | ldReg x y => exact Laws.InTable.ldReg x y
  | orReg x y => exact Laws.InTable.orReg x y
  | andReg x y => exact Laws.InTable.andReg x y
  | xorReg x y => exact Laws.InTable.xorReg x y
  | addReg x y => exact Laws.InTable.addReg x y
  | subReg x y => exact Laws.InTable.subReg x y
  | shr x y => exact Laws.InTable.shr x y
  | subn x y => exact Laws.InTable.subn x y
  | shl x y => exact Laws.InTable.shl x y
  | sneReg x y => exact Laws.InTable.sneReg x y
  | ldI nnn => exact Laws.InTable.ldI nnn
  | jpV0 nnn => exact Laws.InTable.jpV0 nnn
  | rnd x nn => exact Laws.InTable.rnd x nn
  | drw x y n => exact Laws.InTable.drw x y n
  | skp x => exact Laws.InTable.skp x
  | sknp x => exact Laws.InTable.sknp x
  | ldFromDT x => exact Laws.InTable.ldFromDT x
  | ldKey x => exact Laws.InTable.ldKey x
  | ldDT x => exact Laws.InTable.ldDT x
  | ldST x => exact Laws.InTable.ldST x
  | addI x => exact Laws.InTable.addI x
  | ldF x => exact Laws.InTable.ldF x
  | ldB x => exact Laws.InTable.ldB x
  | store x => exact Laws.InTable.store x
  | load x => exact Laws.InTable.load x

theorem eq_of_mnemonic_eq {r r' : OpcodeRow} (h : r ∈ opcodeTable) (h' : r' ∈ opcodeTable)
    (heq : r.mnemonic = r'.mnemonic) : r = r' :=
  List.inj_on_of_nodup_map (f := OpcodeRow.mnemonic) (by decide) h h' heq

/-! From a row to the instructions of its words: what the masks keep. -/

/-- A field of `n` bits that the mask keeps is the pattern's. -/
theorem field_of_covers {m : String} {p mask w : Word} (h : OpcodeRow.covers ⟨m, p, mask⟩ w = true)
    {k n : Nat} (hmask : ∀ j, j < n → k + j < 16 ∧ mask.getLsbD (k + j) = true) :
    w.extractLsb' k n = p.extractLsb' k n := by
  refine BitVec.eq_of_getLsbD_eq fun j hj => ?_
  obtain ⟨hlt, hbit⟩ := hmask j hj
  have := (OpcodeRow.covers_iff _ w).1 h (k + j) hlt
  simpa [hbit, hj] using this

/-- Every word the row covers is the word of an instruction of the row's mnemonic. -/
def CoversInstrsOnly (r : OpcodeRow) : Prop :=
  ∀ w, r.covers w = true → ∃ i : Instr, encode i = w ∧ r.mnemonic = i.mnemonic

theorem rowWhole_coversInstrsOnly {m : String} {p : Word} (i : Instr) (hi : encode i = p)
    (hm : m = i.mnemonic) : CoversInstrsOnly ⟨m, p, 0xFFFF⟩ := by
  intro w h
  have hw : w.extractLsb' 0 16 = p.extractLsb' 0 16 := field_of_covers h (by decide)
  refine ⟨i, ?_, hm⟩
  simpa [hi] using hw.symm

theorem rowA_coversInstrsOnly {m : String} {p : Word} (mk : Addr12 → Instr)
    (hi : ∀ nnn, encode (mk nnn) = formatA (Word.family p) nnn)
    (hm : ∀ nnn, m = (mk nnn).mnemonic) :
    CoversInstrsOnly ⟨m, p, 0xF000⟩ := by
  intro w h
  have hf : w.family = Word.family p := field_of_covers h (by decide)
  exact ⟨mk w.fieldNNN, (hi _).trans (formatA_of_family hf), hm _⟩

theorem rowXNN_coversInstrsOnly {m : String} {p : Word} (mk : Reg → Byte → Instr)
    (hi : ∀ x nn, encode (mk x nn) = formatXNN (Word.family p) x nn)
    (hm : ∀ x nn, m = (mk x nn).mnemonic) : CoversInstrsOnly ⟨m, p, 0xF000⟩ := by
  intro w h
  have hf : w.family = Word.family p := field_of_covers h (by decide)
  exact ⟨mk w.fieldX w.fieldNN, (hi _ _).trans (formatXNN_of_family hf), hm _ _⟩

theorem rowXYN_coversInstrsOnly {m : String} {p : Word} (mk : Reg → Reg → Nibble → Instr)
    (hi : ∀ x y n, encode (mk x y n) = formatXYN (Word.family p) x y n)
    (hm : ∀ x y n, m = (mk x y n).mnemonic) : CoversInstrsOnly ⟨m, p, 0xF000⟩ := by
  intro w h
  have hf : w.family = Word.family p := field_of_covers h (by decide)
  exact ⟨mk w.fieldX w.fieldY w.fieldN, (hi _ _ _).trans (formatXYN_of_family hf), hm _ _ _⟩

theorem rowXYF_coversInstrsOnly {m : String} {p : Word} (mk : Reg → Reg → Instr)
    (hi : ∀ x y, encode (mk x y) = formatXYN (Word.family p) x y (Word.fieldN p))
    (hm : ∀ x y, m = (mk x y).mnemonic) : CoversInstrsOnly ⟨m, p, 0xF00F⟩ := by
  intro w h
  have hf : w.family = Word.family p := field_of_covers h (by decide)
  have hn : w.fieldN = Word.fieldN p := field_of_covers h (by decide)
  exact ⟨mk w.fieldX w.fieldY, (hi _ _).trans (formatXYN_of_code hf hn), hm _ _⟩

theorem rowXF_coversInstrsOnly {m : String} {p : Word} (mk : Reg → Instr)
    (hi : ∀ x, encode (mk x) = formatXNN (Word.family p) x (Word.fieldNN p))
    (hm : ∀ x, m = (mk x).mnemonic) : CoversInstrsOnly ⟨m, p, 0xF0FF⟩ := by
  intro w h
  have hf : w.family = Word.family p := field_of_covers h (by decide)
  have hc : w.fieldNN = Word.fieldNN p := field_of_covers h (by decide)
  exact ⟨mk w.fieldX, (hi _).trans (formatXNN_of_code hf hc), hm _⟩

theorem opcodeRowsLow_coverInstrsOnly : ∀ r ∈ opcodeRowsLow, CoversInstrsOnly r := by
  simp only [opcodeRowsLow, List.forall_mem_cons, List.not_mem_nil, false_imp_iff, forall_true_iff,
    and_true]
  exact ⟨rowWhole_coversInstrsOnly .cls rfl rfl, rowWhole_coversInstrsOnly .ret rfl rfl,
    rowA_coversInstrsOnly .jp (fun _ => rfl) (fun _ => rfl),
    rowA_coversInstrsOnly .call (fun _ => rfl) (fun _ => rfl),
    rowXNN_coversInstrsOnly .seImm (fun _ _ => rfl) (fun _ _ => rfl),
    rowXNN_coversInstrsOnly .sneImm (fun _ _ => rfl) (fun _ _ => rfl),
    rowXYF_coversInstrsOnly .seReg (fun _ _ => rfl) (fun _ _ => rfl),
    rowXNN_coversInstrsOnly .ldImm (fun _ _ => rfl) (fun _ _ => rfl),
    rowXNN_coversInstrsOnly .addImm (fun _ _ => rfl) (fun _ _ => rfl)⟩

theorem opcodeRowsEight_coverInstrsOnly : ∀ r ∈ opcodeRowsEight, CoversInstrsOnly r := by
  simp only [opcodeRowsEight, List.forall_mem_cons, List.not_mem_nil, false_imp_iff,
    forall_true_iff, and_true]
  exact ⟨rowXYF_coversInstrsOnly .ldReg (fun _ _ => rfl) (fun _ _ => rfl),
    rowXYF_coversInstrsOnly .orReg (fun _ _ => rfl) (fun _ _ => rfl),
    rowXYF_coversInstrsOnly .andReg (fun _ _ => rfl) (fun _ _ => rfl),
    rowXYF_coversInstrsOnly .xorReg (fun _ _ => rfl) (fun _ _ => rfl),
    rowXYF_coversInstrsOnly .addReg (fun _ _ => rfl) (fun _ _ => rfl),
    rowXYF_coversInstrsOnly .subReg (fun _ _ => rfl) (fun _ _ => rfl),
    rowXYF_coversInstrsOnly .shr (fun _ _ => rfl) (fun _ _ => rfl),
    rowXYF_coversInstrsOnly .subn (fun _ _ => rfl) (fun _ _ => rfl),
    rowXYF_coversInstrsOnly .shl (fun _ _ => rfl) (fun _ _ => rfl)⟩

theorem opcodeRowsMid_coverInstrsOnly : ∀ r ∈ opcodeRowsMid, CoversInstrsOnly r := by
  simp only [opcodeRowsMid, List.forall_mem_cons, List.not_mem_nil, false_imp_iff, forall_true_iff,
    and_true]
  exact ⟨rowXYF_coversInstrsOnly .sneReg (fun _ _ => rfl) (fun _ _ => rfl),
    rowA_coversInstrsOnly .ldI (fun _ => rfl) (fun _ => rfl),
    rowA_coversInstrsOnly .jpV0 (fun _ => rfl) (fun _ => rfl),
    rowXNN_coversInstrsOnly .rnd (fun _ _ => rfl) (fun _ _ => rfl),
    rowXYN_coversInstrsOnly .drw (fun _ _ _ => rfl) (fun _ _ _ => rfl),
    rowXF_coversInstrsOnly .skp (fun _ => rfl) (fun _ => rfl),
    rowXF_coversInstrsOnly .sknp (fun _ => rfl) (fun _ => rfl)⟩

theorem opcodeRowsHigh_coverInstrsOnly : ∀ r ∈ opcodeRowsHigh, CoversInstrsOnly r := by
  simp only [opcodeRowsHigh, List.forall_mem_cons, List.not_mem_nil, false_imp_iff,
    forall_true_iff, and_true]
  exact ⟨rowXF_coversInstrsOnly .ldFromDT (fun _ => rfl) (fun _ => rfl),
    rowXF_coversInstrsOnly .ldKey (fun _ => rfl) (fun _ => rfl),
    rowXF_coversInstrsOnly .ldDT (fun _ => rfl) (fun _ => rfl),
    rowXF_coversInstrsOnly .ldST (fun _ => rfl) (fun _ => rfl),
    rowXF_coversInstrsOnly .addI (fun _ => rfl) (fun _ => rfl),
    rowXF_coversInstrsOnly .ldF (fun _ => rfl) (fun _ => rfl),
    rowXF_coversInstrsOnly .ldB (fun _ => rfl) (fun _ => rfl),
    rowXF_coversInstrsOnly .store (fun _ => rfl) (fun _ => rfl),
    rowXF_coversInstrsOnly .load (fun _ => rfl) (fun _ => rfl)⟩

theorem opcodeTable_coversInstrsOnly {r : OpcodeRow} (hr : r ∈ opcodeTable) :
    CoversInstrsOnly r := by
  simp only [opcodeTable, List.mem_append] at hr
  rcases hr with ((hr | hr) | hr) | hr
  · exact opcodeRowsLow_coverInstrsOnly r hr
  · exact opcodeRowsEight_coverInstrsOnly r hr
  · exact opcodeRowsMid_coverInstrsOnly r hr
  · exact opcodeRowsHigh_coverInstrsOnly r hr

/-! The decoder and the table. -/

theorem decodes_iff_wellFormedWord (w : Word) :
    (∃ i, decodeWord w = .ok i) ↔ wellFormedWord w = true := by
  rw [wellFormedWord, List.any_eq_true]
  constructor
  · rintro ⟨i, hi⟩
    obtain ⟨r, hr, -, hcov⟩ := row_of_instr i
    rw [decodeWord_answersForWord w i hi] at hcov
    exact ⟨r, hr, hcov⟩
  · rintro ⟨r, hr, hcov⟩
    obtain ⟨i, rfl, -⟩ := opcodeTable_coversInstrsOnly hr w hcov
    exact ⟨i, decodeWord_encode i⟩

theorem covers_iff_mnemonic {i : Instr} {r : OpcodeRow} (hr : r ∈ opcodeTable) :
    r.covers (encode i) = true ↔ r.mnemonic = i.mnemonic := by
  constructor
  · intro hcov
    obtain ⟨j, hj, hm⟩ := opcodeTable_coversInstrsOnly hr _ hcov
    have hij : decodeWord (encode i) = .ok j := hj ▸ decodeWord_encode j
    cases (decodeWord_encode i).symm.trans hij
    exact hm
  · intro hm
    obtain ⟨r', hr', hm', hcov⟩ := row_of_instr i
    rwa [eq_of_mnemonic_eq hr hr' (hm.trans hm'.symm)]

/-- Settles O2: the rows cover the words of their mnemonics' instructions, which are the words the decoder
reads; every other word is rejected, and a rejection names the word. -/
theorem decoderAgreesWithOpcodeTable : Obligations.DecoderAgreesWithOpcodeTable := by
  refine fun w => ⟨decodes_iff_wellFormedWord w, fun i hi r hr => ?_, fun hw => ?_⟩
  · rw [← decodeWord_answersForWord w i hi]
    exact covers_iff_mnemonic hr
  · cases hd : decodeWord w with
    | ok i => exact absurd ((decodes_iff_wellFormedWord w).1 ⟨i, hd⟩) (Bool.eq_false_iff.1 hw)
    | error e => rw [(decodeWord_rejectsExactly w).eq_undefinedWord hd]

/-- Settles O4: each word is read by its family and its fields. -/
theorem exampleWordsDecode : Obligations.ExampleWordsDecode :=
  ⟨rfl, rfl, rfl, rfl, rfl, rfl, rfl, rfl⟩

end Sys2Proof
end

section
/-! The fetch and the placing of a word (40_cycle.md R121): where a word can be fetched, what a step does
with it, and that a word placed by `withFetchWord` is the one fetched. -/

namespace Sys2Proof.Machine

/-- Settles O6: past the HALTED check, the fetch and the decoding, the step is `exec`. -/
theorem stepRunsDecodedInstruction : Obligations.StepRunsDecodedInstruction :=
  fun _ _ hrun hpc hdecode => step_of_decodeWord_ok hrun (fetch_ok hpc) hdecode

theorem tableWord_toNat (w : Word) : tableWord 16 w.toNat = w :=
  BitVec.eq_of_toNat_eq (by simpa [tableWord] using w.isLt)

theorem placeAddr_le (s : State) : (placeAddr s).toNat ≤ 0xFFE := by
  unfold placeAddr
  split
  · next h => exact Nat.le_of_succ_le_succ h
  · decide

@[simp] theorem placeWord_pc (w : Word) (s : State) : (placeWord w s).pc = placeAddr s := rfl

@[simp] theorem placeWord_mem (w : Word) (s : State) :
    (placeWord w s).mem = s.mem.writeBytes (placeAddr s).toNat (wordBytes w) := rfl

theorem placeWord_run (w : Word) (s : State) : (placeWord w s).run ≠ .halted := by
  show (if s.run = .halted then RunState.running else s.run) ≠ .halted
  split
  · exact RunState.noConfusion
  · assumption

theorem fetch_placeWord (w : Word) (s : State) : fetch (placeWord w s) = .ok w := by
  have hhi := Memory.read_writeBytes_inside s.mem (placeAddr s).toNat (wordBytes w) (j := 0)
    (by simp [wordBytes])
  have hlo := Memory.read_writeBytes_inside s.mem (placeAddr s).toNat (wordBytes w) (j := 1)
    (by simp [wordBytes])
  rw [Nat.add_zero] at hhi
  rw [fetch_ok (placeAddr_le s), placeWord_pc, placeWord_mem, hhi, hlo]
  exact congrArg Except.ok (joinBytes_hiByte_loByte w)

/-- Settles O7: the word placed is fetched and decodes to its instruction. -/
theorem placedWordIsRun : Obligations.PlacedWordIsRun := by
  intro s i
  rw [State.withFetchWord, tableWord_toNat]
  exact step_of_decodeWord_ok (placeWord_run _ s) (fetch_placeWord _ s) (decodeWord_encode i)

theorem step_of_fetch_error {s : State} {f : AccessFault} (hrun : s.run ≠ .halted)
    (hf : fetch s = .error f) : step s = .next (raise f.kind none (some f.addr) s) := by
  simp [step, hrun, hf, stepFetchFault]

theorem fetch_above {s : State} (h : 0xFFE < s.pc.toNat) :
    fetch s = .error ⟨.memoryRange, max s.pc.toNat 0x1000⟩ := by
  simp [fetch, firstFault_read_range (a := s.pc.toNat) (n := 2) (by decide) (by omega)]

/-- Settles O9: the first failing address of the two is PC + 1 where PC is 0xFFF, else PC. -/
theorem fetchFaultsAboveMemory : Obligations.FetchFaultsAboveMemory := by
  intro s hrun hpc
  have hinfo : (if s.pc.toNat = 0xFFF then 0x1000 else s.pc.toNat) = max s.pc.toNat 0x1000 := by
    split <;> omega
  rw [hinfo]
  exact ⟨_, step_of_fetch_error hrun (fetch_above hpc), raise_tookHalting rfl none _ s,
    stepResult_of_errors_append hrun (raise_errors ..)⟩

end Sys2Proof.Machine
end

section
/-! The return, the skips on registers and the jump with an offset (41_control_flow.md R140, R146 to
R148). -/

namespace Sys2Proof.Machine

theorem State.stackEmpty_iff {s : State} : s.stackEmpty = true ↔ s.sp.val = 0 :=
  beq_iff_eq.trans Fin.ext_iff

theorem exec_ret_of_pos {s : State} (h : 0 < s.sp.val) :
    exec .ret s = complete s.stack[s.sp.val - 1] s.pop :=
  if_neg fun hempty => h.ne' (State.stackEmpty_iff.1 hempty)

theorem exec_ret_of_empty {s : State} (h : s.sp.val = 0) :
    exec .ret s = raiseBy .ret .stackUnderflow none s :=
  if_pos (State.stackEmpty_iff.2 h)

/-- Settles O17: above an empty stack the return is a pop and a completion at the entry popped; with an
empty stack it is `raise` of StackUnderflowError, which is a recoverable error. -/
theorem returnPopsIntoPc : Obligations.ReturnPopsIntoPc := by
  refine ⟨decodeWord_encode .ret, fun s hpos => ?_, fun s hempty => ?_⟩
  · exact ⟨_, exec_ret_of_pos hpos, rfl, rfl, rfl, (pop_unchanged s).trans (complete_unchanged _ _)⟩
  · exact ⟨_, exec_ret_of_empty hempty, raise_tookRecoverable rfl _ s⟩

/-- Settles O18: the entry popped is the one pushed, at the SP before the call. -/
theorem returnUndoesCall : Obligations.ReturnUndoesCall := by
  intro nnn s t hlt hcall
  obtain ⟨-, hpush, -⟩ := callPushesReturnAddress nnn
  obtain ⟨-, hpop, -⟩ := returnPopsIntoPc
  obtain ⟨t', hcall', hsp, -, -, hstack, hframe⟩ := hpush s hlt
  cases hcall.symm.trans hcall'
  obtain ⟨u, hret, hsp', hpc, -, hframe'⟩ := hpop t (by omega)
  have hsame : u.sp = s.sp := Fin.ext (by omega)
  refine ⟨u, hret, ?_, hsame, fun f hf => ?_⟩
  · rw [hpc, hstack _ (by omega), if_pos (by omega)]
  · by_cases hf' : f = .sp
    · exact hf' ▸ hsame
    · have hall : UnchangedExcept [.sp, .pc, .stack, .run] s u :=
        (hframe.trans hframe').mono (by decide)
      exact hall f (List.not_mem_cons_of_ne_of_not_mem hf' hf)

/-- Settles O20: both are skips, on equal and on different. -/
theorem registerSkipsCompare : Obligations.RegisterSkipsCompare := by
  refine fun x y =>
    ⟨decodeWord_encode (.seReg x y), decodeWord_encode (.sneReg x y), fun s => ⟨?_, ?_⟩⟩
  · exact skipIf_next (by simp [BitVec.toNat_inj]) s
  · exact skipIf_next (by simp [BitVec.toNat_inj]) s

/-- Settles O21: the jump is a completion at NNN + V0, which fits in PC. -/
theorem offsetJumpAddsV0 : Obligations.OffsetJumpAddsV0 := fun nnn =>
  ⟨decodeWord_encode (.jpV0 nnn), fun s =>
    ⟨_, rfl, offsetTarget_toNat nnn (s.readV 0), rfl, complete_unchanged _ s⟩⟩

end Sys2Proof.Machine
end

section
/-! The logic instructions, the shifts, the index arithmetic and the clearing of the screen (42_alu.md
R174 to R176, R179, R181, 43_index_memory.md R212, R213, 44_display.md R240). -/

namespace Sys2Proof.Machine

/-- What an instruction answers that writes V[X] with a byte whose bits are given by `bit`. -/
theorem advance_setV_bits {x : Reg} {b : Byte} {bit : Nat → Bool}
    (hbit : ∀ k, b.getLsbD k = bit k) (s : State) :
    ∃ t, advance (s.setV x b) = .next t ∧ OnlyRegs [x] s t ∧ AdvancedBy 2 s t ∧
      UnchangedExcept [.v, .pc, .run] s t ∧ ∀ k, k < 8 → (t.readV x).getLsbD k = bit k := by
  obtain ⟨t, hexec, hx, honly, hpc, hframe⟩ := advance_setV_next x b s
  exact ⟨t, hexec, honly, hpc, hframe, fun k _ => hx ▸ hbit k⟩

/-- Settles O25: V[X] is written with the OR, the AND and the exclusive OR of the two bytes. -/
theorem logicActsBitByBit : Obligations.LogicActsBitByBit := fun x y =>
  ⟨decodeWord_encode (.orReg x y), decodeWord_encode (.andReg x y),
    decodeWord_encode (.xorReg x y), fun s =>
    ⟨advance_setV_bits (fun _ => BitVec.getLsbD_or) s,
      advance_setV_bits (fun _ => BitVec.getLsbD_and) s,
      advance_setV_bits (fun _ => BitVec.getLsbD_xor) s⟩⟩

theorem lowBitFlag_toNat (a : Byte) : (lowBitFlag a).toNat = a.toNat % 2 := by
  rw [lowBitFlag, flagByte_toNat, BitVec.getLsbD, Nat.testBit_zero]
  rcases Nat.mod_two_eq_zero_or_one a.toNat with h | h <;> simp [h]

theorem highBitFlag_toNat (a : Byte) : (highBitFlag a).toNat = a.toNat / 128 := by
  have ha := a.isLt
  rw [highBitFlag, flagByte_toNat, BitVec.getLsbD, Nat.testBit_eq_decide_div_mod_eq]
  simp only [decide_eq_true_eq]
  split <;> omega

/-- Settles O28: the result is the half and the truncated double, and the flag the bit moved out, both of
the old V[X]. -/
theorem shiftsMoveOneBit : Obligations.ShiftsMoveOneBit := by
  refine fun x y => ⟨decodeWord_encode (.shr x y), decodeWord_encode (.shl x y), fun s => ⟨?_, ?_⟩⟩
  · obtain ⟨t, hexec, hx, hflag, hframe⟩ :=
      advance_setFlagged_next x (lowBitFlag (s.readV x)) (halve (s.readV x)) s
    exact ⟨t, hexec, hx ▸ halve_toNat _, fun hne => hflag hne ▸ lowBitFlag_toNat _, hframe⟩
  · obtain ⟨t, hexec, hx, hflag, hframe⟩ :=
      advance_setFlagged_next x (highBitFlag (s.readV x)) (double (s.readV x)) s
    exact ⟨t, hexec, hx ▸ double_toNat _, fun hne => hflag hne ▸ highBitFlag_toNat _, hframe⟩

/-- Settles O31: I is written with the truncated sum, and with five times V[X]. -/
theorem indexArithmetic : Obligations.IndexArithmetic := by
  refine fun x => ⟨decodeWord_encode (.addI x), decodeWord_encode (.ldF x), fun s => ⟨?_, ?_⟩⟩
  · obtain ⟨t, hexec, hi, hframe⟩ := advance_setI_next (indexPlus s.i (s.readV x)) s
    exact ⟨t, hexec, hi ▸ indexPlus_toNat _ _, hframe⟩
  · obtain ⟨t, hexec, hi, hframe⟩ := advance_setI_next (glyphAddr (s.readV x)) s
    exact ⟨t, hexec, hi ▸ glyphAddr_toNat _, hframe⟩

/-- Settles O38: the screen is replaced by the blank one, and REDRAW set with it. -/
theorem clearTurnsEveryPixelOff : Obligations.ClearTurnsEveryPixelOff :=
  ⟨decodeWord_encode .cls, fun s => ⟨_, rfl, pixelAt_blankScreen, rfl,
    advance_advancedBy (s.setScreen blankScreen),
    (setScreen_unchanged _ s).trans (complete_unchanged _ _)⟩⟩

end Sys2Proof.Machine
end

section
/-! The register store, and memory as data (43_index_memory.md R215, R217, 20_memory.md R74). What a
completing store leaves in memory is said once; the load after it and the fetch after it read that. -/

namespace Sys2Proof.Machine

/-! The store. -/

/-- Where every address may be written, FX55 writes the bytes of V0..VX at I and advances. -/
theorem exec_store_of_ok {x : Reg} {s : State} (hfont : 0x050 ≤ s.i.toNat)
    (hrange : s.i.toNat + x.toNat ≤ 0xFFF) :
    exec (.store x) s = advance (s.setMem (s.mem.writeBytes s.i.toNat (regBytes s.v x))) :=
  accessing_ok (firstFault_write_eq_none.2 (.inr ⟨hfont, by rw [regCount]; omega⟩)) _

theorem read_regBytes_inside (m : Memory) (a : Nat) (s : State) {x k : Reg}
    (hk : k.toNat ≤ x.toNat) :
    (m.writeBytes a (regBytes s.v x)).read (a + k.toNat) = s.readV k := by
  rw [Memory.read_writeBytes_inside _ _ _ (by rw [length_regBytes]; omega), getElem_regBytes]
  rfl

/-- Settles O33: where all the addresses may be written the registers are; else the first failing one is I
in the font area, and the larger of I and 0x1000 above it. -/
theorem storeWritesRegisters : Obligations.StoreWritesRegisters := by
  refine fun x => ⟨decodeWord_encode (.store x), fun s hfont hrange => ?_, fun s hfont => ?_,
    fun s hrange => ?_⟩
  · obtain ⟨t, hexec, hmem, hframe⟩ :=
      advance_setMem_next (s.mem.writeBytes s.i.toNat (regBytes s.v x)) s
    refine ⟨t, (exec_store_of_ok hfont hrange).trans hexec, fun k hk => ?_, fun a ha => ?_,
      hframe⟩ <;> rw [hmem]
    · exact read_regBytes_inside _ _ s hk
    · exact Memory.read_writeBytes_outside _ (by rw [length_regBytes]; omega)
  · exact accessing_tookHalting (firstFault_write_font (Nat.succ_pos _) hfont) rfl _
  · have hfault : firstFault checkWrite s.i.toNat (regCount x) = some ⟨.memoryRange, _⟩ :=
      firstFault_write_range (Nat.succ_pos _) (by omega) (by rw [regCount]; omega)
    exact accessing_tookHalting hfault rfl _

/-- Settles O35: the load reads at the I of the store what the store wrote there. -/
theorem storeThenLoadRestores : Obligations.StoreThenLoadRestores := by
  intro x s t u v hfont hrange hstore hload k hk
  obtain ⟨-, hstored, -⟩ := storeWritesRegisters x
  obtain ⟨-, hloaded, -⟩ := loadReadsRegisters x
  obtain ⟨t', hstore', hread, -, -, hframe⟩ := hstored s hfont hrange
  cases hstore.symm.trans hstore'
  have hi : t.i = s.i := hframe .i (by decide)
  obtain ⟨u', hload', hregs, -⟩ := hloaded (t.setRegs v) (by simpa [hi] using hrange)
  cases hload.symm.trans hload'
  rw [hregs k, if_pos hk]
  simpa [hi] using hread k hk

/-- Settles O36: PC after the store is I, where V0 and V1 were stored. -/
theorem storedWordIsFetchedNext : Obligations.StoredWordIsFetchedNext := by
  intro x s t hx hfont hrange hpc hstore
  obtain ⟨-, hstored, -⟩ := storeWritesRegisters x
  obtain ⟨t', hstore', hread, -, ⟨hnext, -⟩, -⟩ := hstored s hfont hrange
  cases hstore.symm.trans hstore'
  have htpc : t.pc.toNat = s.i.toNat := by omega
  have h0 : t.mem.read s.i.toNat = s.readV 0 := hread 0 (Nat.zero_le _)
  have h1 : t.mem.read (s.i.toNat + 1) = s.readV 1 := hread 1 hx
  rw [fetch_ok (by omega), htpc, h0, h1]

/-! Canonical memories. -/

/-- An address below every listed one reads as its reset contents. -/
theorem Memory.read_of_lt {m : Memory} {a : Nat} (h : ∀ c ∈ m, a < c.1) :
    m.read a = Memory.initial a := by
  induction m with
  | nil => rfl
  | cons c m ih =>
    obtain ⟨hc, hm⟩ := List.forall_mem_cons.1 h
    rw [Memory.read, if_neg hc.ne, ih hm]

theorem Memory.wf_cons {c : Host.Cell} {m : Memory} :
    Memory.wf (c :: m) ↔ (∀ d ∈ m, c.1 < d.1) ∧
      (c.1 ≤ Config.lastAddr ∧ c.2 ≠ Memory.initial c.1) ∧ m.wf := by
  simp only [Memory.wf, List.pairwise_cons, List.forall_mem_cons]
  tauto

theorem Memory.read_cons_same (k : Nat) (b : Byte) (m : Memory) :
    Memory.read ((k, b) :: m) k = b := if_pos rfl

/-- The first address a canonical memory lists does not read as its reset contents. -/
theorem Memory.read_head_ne {c : Host.Cell} {m : Memory} (h : Memory.wf (c :: m)) :
    Memory.read (c :: m) c.1 ≠ Memory.initial c.1 := by
  obtain ⟨-, ⟨-, hne⟩, -⟩ := Memory.wf_cons.1 h
  exact (Memory.read_cons_same c.1 c.2 m).symm ▸ hne

/-- A canonical memory that reads some address below all of another's as the other does lists nothing
there. -/
theorem Memory.head_le_of_read_eq {c d : Host.Cell} {m m' : Memory} (h : Memory.wf (c :: m))
    (h' : Memory.wf (d :: m')) (hread : ∀ a, Memory.read (c :: m) a = Memory.read (d :: m') a) :
    d.1 ≤ c.1 := by
  obtain ⟨hd, -⟩ := Memory.wf_cons.1 h'
  by_contra hlt
  rw [Nat.not_le] at hlt
  refine Memory.read_head_ne h ((hread c.1).trans (Memory.read_of_lt ?_))
  exact List.forall_mem_cons.2 ⟨hlt, fun e he => hlt.trans (hd e he)⟩

theorem Memory.eq_of_read_eq {m m' : Memory} (h : m.wf) (h' : m'.wf)
    (hread : ∀ a, m.read a = m'.read a) : m = m' := by
  induction m generalizing m' with
  | nil =>
    cases m' with
    | nil => rfl
    | cons d m' => exact absurd (hread d.1).symm (Memory.read_head_ne h')
  | cons c m ih =>
    cases m' with
    | nil => exact absurd (hread c.1) (Memory.read_head_ne h)
    | cons d m' =>
      obtain ⟨k, b⟩ := c
      obtain ⟨l, b'⟩ := d
      obtain rfl : l = k := Nat.le_antisymm (Memory.head_le_of_read_eq h h' hread)
        (Memory.head_le_of_read_eq h' h fun a => (hread a).symm)
      obtain ⟨hm, -, hwf⟩ := Memory.wf_cons.1 h
      obtain ⟨hm', -, hwf'⟩ := Memory.wf_cons.1 h'
      have hb : b = b' := by
        simpa only [Memory.read_cons_same] using hread l
      refine congrArg₂ List.cons (congrArg (Prod.mk l) hb) (ih hwf hwf' fun a => ?_)
      by_cases ha : a = l
      · subst ha
        rw [Memory.read_of_lt hm, Memory.read_of_lt hm']
      · simpa [Memory.read, ha] using hread a

/-- Settles O37: the first listed address of each is listed first by the other, with the same byte, and
the rest reads alike. -/
theorem canonicalMemoriesAreEqual : Obligations.CanonicalMemoriesAreEqual :=
  fun _ _ => Memory.eq_of_read_eq

end Sys2Proof.Machine
end

section
/-! The registers an instruction may write (10_state.md R33). An instruction that lists V among its fields
writes one register, the flag and one register, VF alone, or V0..VX; every other one leaves them all. -/

namespace Sys2Proof.Machine

/-- From `s` to `t` no register changes but those of which `may` holds. -/
def KeepsRegs (may : Reg → Bool) (s t : State) : Prop :=
  ∀ r, may r = false → t.readV r = s.readV r

/-- Every next state the step answers keeps those registers as they are in `s`. -/
def AnswersKeepingRegs (may : Reg → Bool) (s : State) (r : Step) : Prop :=
  ∀ t, r = .next t → KeepsRegs may s t

theorem setV_keepsRegs (x : Reg) (b : Byte) (s : State) : KeepsRegs (· == x) s (s.setV x b) :=
  fun _ hr => State.readV_setV_other s (Ne.symm (beq_eq_false_iff_ne.1 hr)) b

theorem setFlagged_keepsRegs (x : Reg) (flag result : Byte) (s : State) :
    KeepsRegs (fun r => r == x || r == Reg.flag) s (s.setFlagged x flag result) := by
  intro r hr
  obtain ⟨hx, hflag⟩ := Bool.or_eq_false_iff.1 hr
  exact readV_setFlagged_other (Ne.symm (beq_eq_false_iff_ne.1 hx))
    (Ne.symm (beq_eq_false_iff_ne.1 hflag)) ..

theorem drawn_keepsRegs (x y : Reg) (n : Nibble) (s : State) :
    KeepsRegs (· == Reg.flag) s (drawn x y n s) :=
  fun r hr => setV_keepsRegs Reg.flag _ (s.setScreen _) r hr

theorem loadRegs_keepsRegs (x : Reg) (a : Nat) (s : State) :
    KeepsRegs (fun r => decide (r.toNat ≤ x.toNat)) s
      (s.setRegs (loadRegs s.v 0 (s.mem.readBytes a (regCount x)))) := by
  intro r hr
  have h := getElem_loadRegs_readBytes s.v s.mem a x r
  rwa [if_neg (of_decide_eq_false hr)] at h

theorem next_answersKeepingRegs {may : Reg → Bool} {s d : State} (h : KeepsRegs may s d) :
    AnswersKeepingRegs may s (.next d) := by
  rintro _ ⟨⟩
  exact h

theorem complete_answersKeepingRegs {may : Reg → Bool} {s d : State} (h : KeepsRegs may s d)
    (w : Word) : AnswersKeepingRegs may s (complete w d) :=
  next_answersKeepingRegs h

theorem accessing_answersKeepingRegs {may : Reg → Bool} {s d : State} (h : KeepsRegs may s d)
    (i : Instr) (check : Nat → Option AccessFault) (n : Nat) :
    AnswersKeepingRegs may s (accessing i check n s d) := by
  rcases accessing_cases i check n s d with ⟨-, e⟩ | ⟨f, -, e⟩ <;> rw [e]
  · exact complete_answersKeepingRegs h _
  · exact next_answersKeepingRegs fun r _ => raise_unchanged _ _ _ s .v (by decide) r

theorem execLdKey_answersKeepingRegs (x : Reg) (s : State) :
    AnswersKeepingRegs (· == x) s (execLdKey x s) := by
  unfold execLdKey
  split
  · exact complete_answersKeepingRegs (setV_keepsRegs x _ s) _
  · exact next_answersKeepingRegs fun _ _ => rfl

theorem exec_answersKeepingRegs (i : Instr) (s : State) :
    AnswersKeepingRegs (mayWriteReg i) s (exec i s) := by
  cases i
  case ldImm | addImm | ldReg | orReg | andReg | xorReg | ldFromDT =>
    exact complete_answersKeepingRegs (setV_keepsRegs _ _ s) _
  case addReg | subReg | shr | subn | shl =>
    exact complete_answersKeepingRegs (setFlagged_keepsRegs _ _ _ s) _
  case rnd x nn => exact complete_answersKeepingRegs (setV_keepsRegs x _ s.countDraw) _
  case ldKey x => exact execLdKey_answersKeepingRegs x s
  case drw x y n => exact accessing_answersKeepingRegs (drawn_keepsRegs x y n s) _ _ _
  case load x => exact accessing_answersKeepingRegs (loadRegs_keepsRegs x _ s) _ _ _
  -- no other instruction has V among its fields
  all_goals exact fun t h r _ => exec_answersUnchanged _ s t h .v (by simp [mayChange]) r

/-- Settles O53: the fields are those of `exec_answersUnchanged`, the registers those of
`exec_answersKeepingRegs`. -/
theorem onlyNamedWritersWrite : Obligations.OnlyNamedWritersWrite :=
  fun i s t h => ⟨exec_answersUnchanged i s t h, exec_answersKeepingRegs i s t h⟩

end Sys2Proof.Machine
end

section
/-! Two draws of one sprite (44_display.md R246). Each flips the same pixels, since a draw with X and Y
other than F leaves the position, I and memory; so the second undoes the first, and collides where the
first found a pixel off. -/

namespace Sys2Proof.Machine

/-- Flipping the same pixels twice restores the screen, and the second time a pixel is found on exactly
where it was off the first time. -/
theorem Flips.twice {P : Fin 64 → Fin 32 → Prop} {f g h : Framebuffer} {c c' : Bool}
    (hfg : Flips P ⟨f, false⟩ ⟨g, c⟩) (hgh : Flips P ⟨g, false⟩ ⟨h, c'⟩) :
    h = f ∧ (c' = true ↔ ∃ px py, P px py ∧ pixelAt f px py = false) := by
  constructor
  · refine Framebuffer.ext fun px py => ?_
    by_cases hP : P px py
    · rw [hgh.flipped hP, hfg.flipped hP, Bool.not_not]
    · rw [hgh.kept hP, hfg.kept hP]
  · have hflip : ∀ px py, P px py ∧ pixelAt g px py = true ↔ P px py ∧ pixelAt f px py = false :=
      fun px py => and_congr_right fun hP => by rw [hfg.flipped hP, Bool.not_eq_true']
    simpa only [hflip, Bool.false_eq_true, false_or] using hgh.collision

/-- The pixels a draw of the `n`-byte sprite at I covers, at the position of V[X] and V[Y]. -/
def spriteAt (x y : Reg) (n : Nibble) (s : State) : Fin 64 → Fin 32 → Prop :=
  spriteCovers s (s.readV x).toNat (s.readV y).toNat n.toNat

/-- A draw whose sprite is in memory flips the sprite's pixels, and tells in VF whether it collided. -/
theorem exec_drw_flips {x y : Reg} {n : Nibble} {s t : State}
    (hrange : n = 0 ∨ s.i.toNat + n.toNat ≤ 0x1000) (h : exec (.drw x y n) s = .next t) :
    (∃ c, Flips (spriteAt x y n s) ⟨s.fb, false⟩ ⟨t.fb, c⟩ ∧ t.readV 0xF = flagByte c) ∧
      OnlyRegs [0xF] s t ∧ UnchangedExcept [.fb, .redraw, .v, .pc, .run] s t := by
  have hok : firstFault checkRead s.i.toNat n.toNat = none :=
    firstFault_read_eq_none.2 (hrange.imp_left (congrArg BitVec.toNat))
  obtain ⟨t', hexec, ⟨d, hflips, hfb, hflag⟩, -, honly, -, hframe⟩ := advance_drawn_next x y n s
  cases h.symm.trans ((accessing_ok hok _).trans hexec)
  exact ⟨⟨d.collision, hfb ▸ hflips, hflag⟩, honly, hframe⟩

/-- The sprite and its position depend on memory, I, V[X] and V[Y] alone. -/
theorem spriteAt_congr {x y : Reg} {s t : State} (hx : t.readV x = s.readV x)
    (hy : t.readV y = s.readV y) (hi : t.i = s.i) (hmem : ∀ a, t.mem.read a = s.mem.read a)
    (n : Nibble) : spriteAt x y n t = spriteAt x y n s := by
  unfold spriteAt spriteCovers
  simp only [hx, hy, hi, hmem]

/-- Two draws of one sprite: the screen is restored, and VF is 1 exactly where the first draw turned a
pixel on. -/
theorem exec_drw_twice {x y : Reg} {n : Nibble} {s t u : State} (hx : x ≠ 0xF) (hy : y ≠ 0xF)
    (hrange : n = 0 ∨ s.i.toNat + n.toNat ≤ 0x1000) (hst : exec (.drw x y n) s = .next t)
    (htu : exec (.drw x y n) t = .next u) :
    u.fb = s.fb ∧ ∃ c, u.readV 0xF = flagByte c ∧
      (c = true ↔ ∃ px py, spriteAt x y n s px py ∧ pixelAt s.fb px py = false) := by
  obtain ⟨⟨c, hflips, -⟩, honly, hframe⟩ := exec_drw_flips hrange hst
  have hi : t.i = s.i := hframe .i (by decide)
  obtain ⟨⟨c', hflips', hflag⟩, -⟩ := exec_drw_flips (hi ▸ hrange) htu
  have hsame : spriteAt x y n t = spriteAt x y n s :=
    spriteAt_congr (honly x (by simpa using hx)) (honly y (by simpa using hy)) hi
      (hframe .mem (by decide)) n
  obtain ⟨hfb, hcollision⟩ := hflips.twice (hsame ▸ hflips')
  exact ⟨hfb, c', hflag, hcollision⟩

theorem flagByte_eq_one_iff {c : Bool} : flagByte c = 1 ↔ c = true := by
  cases c <;> decide

/-- Settles O40: the second draw flips back what the first flipped. -/
theorem doubleDrawRestoresScreen : Obligations.DoubleDrawRestoresScreen := by
  intro x y n s t u hx hy hrange hst htu
  obtain ⟨hfb, c, hflag, hcollision⟩ := exec_drw_twice hx hy hrange hst htu
  exact ⟨hfb, by rw [hflag, flagByte_eq_one_iff]; exact hcollision⟩

/-- A sprite covers some pixel exactly when one of its bytes has a 1 bit, wherever it is drawn. -/
theorem exists_spriteCovers_iff {s : State} {x0 y0 n : Nat} :
    (∃ px py, spriteCovers s x0 y0 n px py) ↔
      ∃ row col, row < n ∧ col < 8 ∧ (s.mem.read (s.i.toNat + row)).getLsbD col = true := by
  constructor
  · rintro ⟨-, -, row, col, hrow, hcol, hbit, -, -⟩
    exact ⟨row, 7 - col, hrow, by omega, hbit⟩
  · rintro ⟨row, col, hrow, hcol, hbit⟩
    refine ⟨wrapX (x0 + (7 - col)), wrapY (y0 + row), row, 7 - col, hrow, by omega, ?_, rfl, rfl⟩
    rwa [show 7 - (7 - col) = col by omega]

/-- Settles O60: over a dark area every pixel of the sprite is one the first draw turned on. -/
theorem secondDrawCollidesFromDarkArea : Obligations.SecondDrawCollidesFromDarkArea := by
  intro x y n s t u hx hy hrange hdark hst htu
  obtain ⟨-, c, hflag, hcollision⟩ := exec_drw_twice hx hy hrange hst htu
  have hon : (∃ px py, spriteAt x y n s px py ∧ pixelAt s.fb px py = false) ↔
      ∃ px py, spriteAt x y n s px py :=
    exists₂_congr fun px py => and_iff_left_of_imp (hdark px py)
  rw [hflag]
  refine ⟨?_, ?_⟩
  · rw [flagByte_eq_one_iff, hcollision, hon]
    exact exists_spriteCovers_iff
  · cases c
    · exact .inl rfl
    · exact .inr rfl

/-- The reset state with every pixel on: I is 0, so a sprite is the first glyph of the font. -/
def litScreen : State := State.reset.setScreen (Vector.replicate 64 (Vector.replicate 32 true))

/-- Refutes O41: with every pixel on, the first draw of one byte of the font turns pixels off and the
second turns them on again, which is no collision (R243, V5.5). -/
theorem not_secondDrawAlwaysCollides : ¬ Obligations.SecondDrawAlwaysCollides := by
  intro h
  have hiff := h 1 2 1 litScreen _ _ (by decide) (by decide) (by decide) rfl rfl
  have hcovers : spriteCovers litScreen (litScreen.readV 1).toNat (litScreen.readV 2).toNat 1 0 0 :=
    ⟨0, 0, by decide, by decide, by decide, by decide, by decide⟩
  exact absurd (hiff.2 ⟨0, 0, hcovers⟩) (by decide)

end Sys2Proof.Machine
end
